-- ==== Sys2Proof/Word.lean ====
section
/-! DEFINITION. The machine's words: bytes, 16-bit words, the encoding's 12-bit address field (R6, R87). -/

namespace Sys2Proof

/-- One memory byte or general register (R20, R60). -/
abbrev Byte := BitVec 8

/-- `I`, `PC`, a stack entry, an instruction word (R24, R25, R28, R85). -/
abbrev Word := BitVec 16

/-- The field `nnn` (R87). -/
abbrev Addr12 := BitVec 12

/-- One 4-bit field of an instruction word (R87). -/
abbrev Nibble := BitVec 4

end Sys2Proof
end

