-- ==== Sys2Proof/Syntax.lean ====
section
/-! DEFINITION. The instructions: one constructor per row of spec/opcode_table.json (R90). -/

namespace Sys2Proof

/-- A register number, 0 to 15; every value names a register (R20, R89). -/
abbrev Reg := Fin 16

/-- One constructor per row of R90, its operands the row's fields (R87, R88). `shr` and `shl` keep the field `y`,
which is decoded and not read (R95). -/
inductive Instr where
  /-- 0x00E0 (R120) -/
  | cls
  /-- 0x00EE (R121) -/
  | ret
  /-- 0x00FD (R122) -/
  | halt
  /-- 0x1nnn (R123) -/
  | jp (nnn : Addr12)
  /-- 0x2nnn (R124) -/
  | call (nnn : Addr12)
  /-- 0x3xkk (R140) -/
  | seVxKk (x : Reg) (kk : Byte)
  /-- 0x4xkk (R141) -/
  | sneVxKk (x : Reg) (kk : Byte)
  /-- 0x5xy0 (R142) -/
  | seVxVy (x y : Reg)
  /-- 0x6xkk (R160) -/
  | ldVxKk (x : Reg) (kk : Byte)
  /-- 0x7xkk (R161) -/
  | addVxKk (x : Reg) (kk : Byte)
  /-- 0x8xy0 (R162) -/
  | ldVxVy (x y : Reg)
  /-- 0x8xy1 (R163) -/
  | orVxVy (x y : Reg)
  /-- 0x8xy2 (R164) -/
  | andVxVy (x y : Reg)
  /-- 0x8xy3 (R165) -/
  | xorVxVy (x y : Reg)
  /-- 0x8xy4 (R168) -/
  | addVxVy (x y : Reg)
  /-- 0x8xy5 (R170) -/
  | sub (x y : Reg)
  /-- 0x8xy6, any `y` (R172) -/
  | shr (x y : Reg)
  /-- 0x8xy7 (R174) -/
  | subn (x y : Reg)
  /-- 0x8xyE, any `y` (R176) -/
  | shl (x y : Reg)
  /-- 0x9xy0 (R143) -/
  | sneVxVy (x y : Reg)
  /-- 0xAnnn (R190) -/
  | ldI (nnn : Addr12)
  /-- 0xBnnn (R125) -/
  | jpV0 (nnn : Addr12)
  /-- 0xCxkk (R178) -/
  | rnd (x : Reg) (kk : Byte)
  /-- 0xDxyn, `n` the row count (R220) -/
  | drw (x y : Reg) (n : Nibble)
  /-- 0xEx9E (R222) -/
  | skp (x : Reg)
  /-- 0xExA1 (R223) -/
  | sknp (x : Reg)
  /-- 0xFx07 (R191) -/
  | ldVxDt (x : Reg)
  /-- 0xFx0A (R226) -/
  | ldVxK (x : Reg)
  /-- 0xFx15 (R192) -/
  | ldDtVx (x : Reg)
  /-- 0xFx18 (R193) -/
  | ldStVx (x : Reg)
  /-- 0xFx1E (R194) -/
  | addIVx (x : Reg)
  /-- 0xFx29 (R195) -/
  | ldFVx (x : Reg)
  /-- 0xFx33 (R203) -/
  | ldBVx (x : Reg)
  /-- 0xFx55 (R205) -/
  | ldMemVx (x : Reg)
  /-- 0xFx65 (R207) -/
  | ldVxMem (x : Reg)
  deriving DecidableEq, Repr

end Sys2Proof
end

