-- ==== Sys2Proof/WellFormed.lean ====
section
/-! DEFINITION. What a well-formed instruction and a well-formed program image are (R87-R89, R282). -/

namespace Sys2Proof

/-- One operand of an instruction as the opcode table gives it: its value and the width of its field in bits. -/
structure OperandField where
  value : Nat
  width : Nat
  deriving DecidableEq, Repr

/-- The value fits its field (R87: all fields are unsigned). -/
def OperandField.fits (f : OperandField) : Bool := decide (f.value < 2 ^ f.width)

/-- A register operand's field, `x` or `y` (R88). -/
def OperandField.ofReg (r : Reg) : OperandField := ⟨r.val, 4⟩

/-- The field `kk` (R88). -/
def OperandField.ofByte (kk : Byte) : OperandField := ⟨kk.toNat, 8⟩

/-- The field `nnn` (R88). -/
def OperandField.ofAddr (nnn : Addr12) : OperandField := ⟨nnn.toNat, 12⟩

/-- The field `n` as a row count (R88, R89). -/
def OperandField.ofNibble (n : Nibble) : OperandField := ⟨n.toNat, 4⟩

/-- The operand fields of an instruction, in the order of its format (R88). -/
def Instr.operandFields : Instr → List OperandField
  | .cls | .ret | .halt => []
  | .jp nnn | .call nnn | .ldI nnn | .jpV0 nnn => [.ofAddr nnn]
  | .seVxKk x kk | .sneVxKk x kk | .ldVxKk x kk | .addVxKk x kk | .rnd x kk => [.ofReg x, .ofByte kk]
  | .seVxVy x y | .ldVxVy x y | .orVxVy x y | .andVxVy x y | .xorVxVy x y | .addVxVy x y | .sub x y
  | .shr x y | .subn x y | .shl x y | .sneVxVy x y => [.ofReg x, .ofReg y]
  | .drw x y n => [.ofReg x, .ofReg y, .ofNibble n]
  | .skp x | .sknp x | .ldVxDt x | .ldVxK x | .ldDtVx x | .ldStVx x | .addIVx x | .ldFVx x | .ldBVx x
  | .ldMemVx x | .ldVxMem x => [.ofReg x]

/-- Every operand fits its field. The operand types carry these bounds (`Reg`, `Byte`, `Addr12`, `Nibble`), so no
ill-formed `Instr` can be built; Laws/PerInstr.lean shows it constructor by constructor. -/
def Instr.wellFormed (i : Instr) : Bool := i.operandFields.all OperandField.fits

/-- The image check of R282: an even number of bytes, at most 0xE00 (90_conflicts.md C2). -/
def imageWellFormed (image : List Byte) : Bool :=
  decide (image.length % 2 = 0) && decide (image.length ≤ 0xE00)

end Sys2Proof
end

