-- ==== Sys2Proof/Decode.lean ====
section
/-! DEFINITION. The decoder of R86-R95, total on any bytes and rejecting by name; then the encoder, written from the
opcode map of R90. -/

namespace Sys2Proof

/-- The fields the decoder extracts from every word (R86, R87). -/
structure Fields where
  f : Nibble
  x : Nibble
  y : Nibble
  n : Nibble
  kk : Byte
  nnn : Addr12
  deriving DecidableEq, Repr

/-- Field extraction, defined on every word (R86, R87). -/
def fields (w : Word) : Fields where
  f := w.extractLsb' 12 4
  x := w.extractLsb' 8 4
  y := w.extractLsb' 4 4
  n := w.extractLsb' 0 4
  kk := w.extractLsb' 0 8
  nnn := w.extractLsb' 0 12

/-- A 4-bit field as a register number (R89). -/
def regOf (b : Nibble) : Reg := ⟨b.toNat, b.isLt⟩

/-- Why bytes are no instruction: one name for each row of R91, and too few bytes for a word. -/
inductive DecodeReject where
  /-- A family-0x0 word that is none of 0x00E0, 0x00EE, 0x00FD (R126). -/
  | family0
  /-- 0x5xyn with `n` not 0 (R144). -/
  | family5
  /-- 0x8xyn with an unknown selector (R177). -/
  | family8
  /-- 0x9xyn with `n` not 0 (R144). -/
  | family9
  /-- 0xExkk with an unknown sub-operation (R224). -/
  | familyE
  /-- 0xFxkk with an unknown sub-operation (R209). -/
  | familyF
  /-- Fewer than two bytes: no word (R85). -/
  | truncated
  deriving DecidableEq, Repr

/-- Family 0x0 matches the whole word (R90, R95, R126). -/
def decodeFamily0 (w : Word) : Except DecodeReject Instr :=
  match w with
  | 0x00E0#16 => .ok .cls
  | 0x00EE#16 => .ok .ret
  | 0x00FD#16 => .ok .halt
  | _ => .error .family0

/-- Family 0x8 selects on `n` (R90, R177). -/
def decodeFamily8 (d : Fields) : Except DecodeReject Instr :=
  let x := regOf d.x
  let y := regOf d.y
  match d.n with
  | 0x0#4 => .ok (.ldVxVy x y)
  | 0x1#4 => .ok (.orVxVy x y)
  | 0x2#4 => .ok (.andVxVy x y)
  | 0x3#4 => .ok (.xorVxVy x y)
  | 0x4#4 => .ok (.addVxVy x y)
  | 0x5#4 => .ok (.sub x y)
  | 0x6#4 => .ok (.shr x y)
  | 0x7#4 => .ok (.subn x y)
  | 0xE#4 => .ok (.shl x y)
  | _ => .error .family8

/-- Family 0xE selects on `kk` (R90, R224). -/
def decodeFamilyE (d : Fields) : Except DecodeReject Instr :=
  match d.kk with
  | 0x9E#8 => .ok (.skp (regOf d.x))
  | 0xA1#8 => .ok (.sknp (regOf d.x))
  | _ => .error .familyE

/-- Family 0xF selects on `kk` (R90, R209). -/
def decodeFamilyF (d : Fields) : Except DecodeReject Instr :=
  let x := regOf d.x
  match d.kk with
  | 0x07#8 => .ok (.ldVxDt x)
  | 0x0A#8 => .ok (.ldVxK x)
  | 0x15#8 => .ok (.ldDtVx x)
  | 0x18#8 => .ok (.ldStVx x)
  | 0x1E#8 => .ok (.addIVx x)
  | 0x29#8 => .ok (.ldFVx x)
  | 0x33#8 => .ok (.ldBVx x)
  | 0x55#8 => .ok (.ldMemVx x)
  | 0x65#8 => .ok (.ldVxMem x)
  | _ => .error .familyF

/-- Dispatch on the family, then on the family's select field (R90, R94); the last arm is family 0xF, the only value
left. -/
def decodeWord (w : Word) : Except DecodeReject Instr :=
  let d := fields w
  match d.f with
  | 0x0#4 => decodeFamily0 w
  | 0x1#4 => .ok (.jp d.nnn)
  | 0x2#4 => .ok (.call d.nnn)
  | 0x3#4 => .ok (.seVxKk (regOf d.x) d.kk)
  | 0x4#4 => .ok (.sneVxKk (regOf d.x) d.kk)
  | 0x5#4 => if d.n = 0 then .ok (.seVxVy (regOf d.x) (regOf d.y)) else .error .family5
  | 0x6#4 => .ok (.ldVxKk (regOf d.x) d.kk)
  | 0x7#4 => .ok (.addVxKk (regOf d.x) d.kk)
  | 0x8#4 => decodeFamily8 d
  | 0x9#4 => if d.n = 0 then .ok (.sneVxVy (regOf d.x) (regOf d.y)) else .error .family9
  | 0xA#4 => .ok (.ldI d.nnn)
  | 0xB#4 => .ok (.jpV0 d.nnn)
  | 0xC#4 => .ok (.rnd (regOf d.x) d.kk)
  | 0xD#4 => .ok (.drw (regOf d.x) (regOf d.y) d.n)
  | 0xE#4 => decodeFamilyE d
  | _ => decodeFamilyF d

/-- The word of two bytes, the first the high one (R63). -/
def wordOfBytes (hi lo : Byte) : Word := hi ++ lo

/-- Decode the first instruction of a byte list; every instruction is two bytes (R85). -/
def decodeBytes : List Byte → Except DecodeReject Instr
  | hi :: lo :: _ => decodeWord (wordOfBytes hi lo)
  | _ => .error .truncated

/-- Format NNN: family and a 12-bit address (R88). -/
def encodeNNN (f : Nibble) (nnn : Addr12) : Word := BitVec.ofNat 16 (f.toNat * 0x1000 + nnn.toNat)

/-- Formats XKK and XSUB: family, register, byte (R88). -/
def encodeXKK (f : Nibble) (x : Reg) (kk : Byte) : Word :=
  BitVec.ofNat 16 (f.toNat * 0x1000 + x.val * 0x100 + kk.toNat)

/-- Format XYN: family, two registers, selector or count (R88). -/
def encodeXYN (f : Nibble) (x y : Reg) (n : Nibble) : Word :=
  BitVec.ofNat 16 (f.toNat * 0x1000 + x.val * 0x100 + y.val * 0x10 + n.toNat)

/-- The word of an instruction (R88, R90). -/
def encode : Instr → Word
  | .cls => 0x00E0
  | .ret => 0x00EE
  | .halt => 0x00FD
  | .jp nnn => encodeNNN 0x1 nnn
  | .call nnn => encodeNNN 0x2 nnn
  | .seVxKk x kk => encodeXKK 0x3 x kk
  | .sneVxKk x kk => encodeXKK 0x4 x kk
  | .seVxVy x y => encodeXYN 0x5 x y 0x0
  | .ldVxKk x kk => encodeXKK 0x6 x kk
  | .addVxKk x kk => encodeXKK 0x7 x kk
  | .ldVxVy x y => encodeXYN 0x8 x y 0x0
  | .orVxVy x y => encodeXYN 0x8 x y 0x1
  | .andVxVy x y => encodeXYN 0x8 x y 0x2
  | .xorVxVy x y => encodeXYN 0x8 x y 0x3
  | .addVxVy x y => encodeXYN 0x8 x y 0x4
  | .sub x y => encodeXYN 0x8 x y 0x5
  | .shr x y => encodeXYN 0x8 x y 0x6
  | .subn x y => encodeXYN 0x8 x y 0x7
  | .shl x y => encodeXYN 0x8 x y 0xE
  | .sneVxVy x y => encodeXYN 0x9 x y 0x0
  | .ldI nnn => encodeNNN 0xA nnn
  | .jpV0 nnn => encodeNNN 0xB nnn
  | .rnd x kk => encodeXKK 0xC x kk
  | .drw x y n => encodeXYN 0xD x y n
  | .skp x => encodeXKK 0xE x 0x9E
  | .sknp x => encodeXKK 0xE x 0xA1
  | .ldVxDt x => encodeXKK 0xF x 0x07
  | .ldVxK x => encodeXKK 0xF x 0x0A
  | .ldDtVx x => encodeXKK 0xF x 0x15
  | .ldStVx x => encodeXKK 0xF x 0x18
  | .addIVx x => encodeXKK 0xF x 0x1E
  | .ldFVx x => encodeXKK 0xF x 0x29
  | .ldBVx x => encodeXKK 0xF x 0x33
  | .ldMemVx x => encodeXKK 0xF x 0x55
  | .ldVxMem x => encodeXKK 0xF x 0x65

/-- A word's two bytes as memory holds them, the high one first (R63). -/
def bytesOfWord (w : Word) : List Byte := [w.extractLsb' 8 8, w.extractLsb' 0 8]

/-- The bytes of an instruction in memory order (R63, R85). -/
def encodeBytes (i : Instr) : List Byte := bytesOfWord (encode i)

/-- The bytes of an instruction whose bits are `w`, numbered as spec/opcode_table.json numbers them: one 16-bit word,
every bit above `nbits` zero. -/
def tableBytes (nbits w : Nat) : List Byte := bytesOfWord (BitVec.ofNat 16 (w % 2 ^ nbits))

/-- The instruction the decoder reads from a table word, `none` where it rejects. -/
def decodeTableWord (nbits w : Nat) : Option Instr :=
  match decodeBytes (tableBytes nbits w) with
  | .ok i => some i
  | .error _ => none

end Sys2Proof
end

