-- ==== Sys2Proof/Config.lean ====
section
/-! DEFINITION. What an implementation fixes (R7) and the free values, constants without a body. -/

namespace Sys2Proof

/-- `GLYPH_ROM`, the 80 bytes at 0x000-0x04F (R7, R284). -/
abbrev GlyphRom := Vector Byte 80

/-- The parameters of R7, an argument of every claim: they stand in State and no step changes them (log 1). -/
structure Config where
  /-- `DISPLAY_PRESENT` -/
  displayPresent : Bool
  /-- `KEYPAD_PRESENT` -/
  keypadPresent : Bool
  /-- `BCD_IMPLEMENTED` -/
  bcdImplemented : Bool
  /-- `SOUND_TIMER_GUARDED` -/
  soundTimerGuarded : Bool
  /-- `GLYPH_ROM` -/
  glyphRom : GlyphRom
  /-- `DEBUG`, without architectural effect (R111) -/
  debug : Bool
  deriving DecidableEq, Repr

/-- The reply of input `rnd` to draw number `n` where State fixes none: a free value (R37, R178, log 4). -/
opaque Config.freeRnd (n : Nat) : Byte

/-- The reply of input `keys` to draw number `n` where State fixes none: a free value (R40, log 4). -/
opaque Config.freeKeys (n : Nat) : Word

/-- The reply of input `disp_collision` to draw number `n` where State fixes none: a free value (R220, log 4). -/
opaque Config.freeCollision (n : Nat) : Bool

end Sys2Proof
end

