-- ==== Sys2Proof/Machine/Defaults.lean ====
section
/-! DEFINITION. The values R7 gives the parameters by default, and the glyph table State.reset takes. -/

namespace Sys2Proof.Machine

/-- PRESUMED (log 2): the conventional glyph table of 93_implementation_defined.md I9, which the spec marks as general
knowledge. Glyph `d` is the five bytes at `5 * d` (R284). -/
def conventionalGlyphs : GlyphRom :=
  #v[0xF0, 0x90, 0x90, 0x90, 0xF0,
     0x20, 0x60, 0x20, 0x20, 0x70,
     0xF0, 0x10, 0xF0, 0x80, 0xF0,
     0xF0, 0x10, 0xF0, 0x10, 0xF0,
     0x90, 0x90, 0xF0, 0x10, 0x10,
     0xF0, 0x80, 0xF0, 0x10, 0xF0,
     0xF0, 0x80, 0xF0, 0x90, 0xF0,
     0xF0, 0x10, 0x20, 0x40, 0x40,
     0xF0, 0x90, 0xF0, 0x90, 0xF0,
     0xF0, 0x90, 0xF0, 0x10, 0xF0,
     0xF0, 0x90, 0xF0, 0x90, 0x90,
     0xE0, 0x90, 0xE0, 0x90, 0xE0,
     0xF0, 0x80, 0x80, 0x80, 0xF0,
     0xE0, 0x90, 0x90, 0x90, 0xE0,
     0xF0, 0x80, 0xF0, 0x80, 0xF0,
     0xF0, 0x80, 0xF0, 0x80, 0x80]

/-- The defaults of R7; a statement about every state holds for every configuration (log 1). -/
def defaultConfig : Config where
  displayPresent := false
  keypadPresent := false
  bcdImplemented := false
  soundTimerGuarded := false
  glyphRom := conventionalGlyphs
  debug := false

end Sys2Proof.Machine
end

