-- ==== Sys2Proof/Machine/State.lean ====
section
/-! DEFINITION. The machine's state, all of it plain data (10_state.md), its reset value (R50), and the two ways a step
stops. -/

namespace Sys2Proof.Machine

/-- `run_state` (R34). -/
inductive RunState where
  | running
  | halted
  | faulted
  deriving DecidableEq, Repr

/-- The kinds of fault (R241). -/
inductive FaultKind where
  /-- Raised by the reset-time image check (R282). -/
  | malformedProgramImage
  /-- Raised by CALL with a full stack (R124). -/
  | stackOverflow
  /-- Raised by RET with an empty stack (R121). -/
  | stackUnderflow
  /-- Raised by an unknown word of families 0x5, 0x8, 0x9, 0xE, 0xF (R91). -/
  | unrecognizedOpcode
  /-- Raised by an unknown family-0 word and by an instruction the engine does not implement (R91, R92). -/
  | unimplementedOpcode
  /-- Raised by an access above 0xFFF (R62). -/
  | outOfBoundsMemoryAccess
  deriving DecidableEq, Repr

/-- What a handler sets when it raises no fault (R13, R36). -/
inductive InstrOutcome where
  | next
  | skip
  | jump
  | halt
  deriving DecidableEq, Repr

/-- A request on the display outputs of R41. -/
inductive DispRequest where
  /-- `disp_clear` -/
  | clear
  /-- `disp_draw`: coordinates and sprite rows -/
  | draw (x y : Byte) (rows : List Byte)
  deriving DecidableEq, Repr

/-- Which agent takes the next step (R264, R280); data of the environment (log 3). -/
inductive Agent where
  /-- the execution loop: one instruction (R102) -/
  | loop
  /-- `tick_dt` arrives (R256) -/
  | tickDt
  /-- `tick_st` arrives (R257, R258) -/
  | tickSt
  /-- the unguarded sound-timer agent's write phase (R259) -/
  | stWrite
  /-- `rst` arrives with a program image (R280) -/
  | rst (image : List Byte)
  deriving DecidableEq, Repr

/-- The coming replies of the inputs `rnd`, `keys`, `disp_collision` (R40), soonest first; where a list is empty the
reply is the free value of Config at `count` (log 4). -/
structure Draws where
  rnd : List Byte
  keys : List Word
  collision : List Bool
  count : Nat
  deriving DecidableEq, Repr

/-- Memory as a list of cells in canonical form: addresses strictly rising, none listed with its reset value (R60). -/
abbrev Memory := List Host.Cell

/-- Everything the spec gives the machine (R20-R38, R60), its outputs (R41), and the environment's data (R40, R43). -/
structure State where
  /-- `V[0]`..`V[15]` (R20) -/
  v : Vector Byte 16
  /-- `I` (R24) -/
  i : Word
  /-- `PC` (R25) -/
  pc : Word
  /-- `SP`, 0 to 16 (R28) -/
  sp : Fin 17
  /-- `S[0]`..`S[15]` (R28) -/
  stack : Vector Word 16
  /-- `DT` (R31) -/
  dt : Byte
  /-- `ST` (R32) -/
  st : Byte
  /-- `run_state` (R34) -/
  runState : RunState
  /-- `fault_kind`, `none` its code 0 (R35) -/
  faultKind : Option FaultKind
  /-- `outcome`, consumed at the end of each instruction (R36) -/
  outcome : Option InstrOutcome
  /-- `st_latch` (R38) -/
  stLatch : Option Byte
  /-- `post_stop_dt_allowed` (R38, R261) -/
  postStopDt : Bool
  /-- `post_stop_st_allowed` (R38, R261) -/
  postStopSt : Bool
  /-- memory 0x000-0xFFF (R60) -/
  mem : Memory
  /-- `cfg` (R7, R40) -/
  cfg : Config
  /-- the requests on `disp_clear` and `disp_draw` since reset, oldest first (R41, log 5) -/
  dispOut : List DispRequest
  /-- the model's own: replies to come (log 4) -/
  draws : Draws
  /-- the model's own: agents to step, soonest first; the execution loop where it is empty (log 3) -/
  schedule : List Agent
  deriving DecidableEq, Repr

/-- Why a step has no next state: the loop's turn in a terminal state, where "the execution loop has no step" (R101).
A fault of R241 is NOT one of these: it is taken, and the next state is FAULTED. -/
inductive Fault where
  /-- Raised by `loopStep` in HALTED; safe: the hardware's loop does nothing there either. -/
  | loopHalted
  /-- Raised by `loopStep` in FAULTED; safe, for the same reason. -/
  | loopFaulted
  deriving DecidableEq, Repr

/-- Instructions without a meaning. -/
inductive Refusal where
  /-- Raised by `exec` for an instruction that has no meaning yet (none is left); safe. -/
  | notModelled (mnemonic : String)
  deriving DecidableEq, Repr

/-- The machine after reset with the empty image (R50, R280-R285), which R282 accepts: RUNNING, and memory as
`resetByte` gives it. How a program is loaded: log 8. -/
def State.reset : State where
  v := Vector.replicate 16 0
  i := 0
  pc := 0x200
  sp := 0
  stack := Vector.replicate 16 0
  dt := 0
  st := 0
  runState := .running
  faultKind := none
  outcome := none
  stLatch := none
  postStopDt := false
  postStopSt := false
  mem := []
  cfg := defaultConfig
  dispOut := []
  draws := ⟨[], [], [], 0⟩
  schedule := []

end Sys2Proof.Machine
end

