-- ==== Sys2Proof/Machine/Ops.lean ====
section
/-! DEFINITION. The named operations over registers, memory, stack, draws and outputs, the end of an instruction (R106),
and taking a fault (R12, R243). -/

namespace Sys2Proof.Machine

/-- What a meaning answers. -/
abbrev Result := Host.Outcome State Fault Refusal

/-! ### Registers -/

/-- `V[x]` (R20): no register is hard-wired. -/
def State.getV (s : State) (x : Reg) : Byte := s.v[x]

/-- `V[x] <- b` (R20). -/
def State.setV (x : Reg) (b : Byte) (s : State) : State := { s with v := s.v.set x.val b x.isLt }

/-- `I <- w` (R24). -/
def State.setI (w : Word) (s : State) : State := { s with i := w }

/-- `PC <- w` (R25). -/
def State.setPc (w : Word) (s : State) : State := { s with pc := w }

/-- `DT <- b` (R31). -/
def State.setDt (b : Byte) (s : State) : State := { s with dt := b }

/-- `ST <- b` (R32). -/
def State.setSt (b : Byte) (s : State) : State := { s with st := b }

/-! ### Memory -/

/-- What address `a` holds after reset with no image byte there (R50): the glyphs, then zeros. It is what an address
that memory does not list reads as. -/
def resetByte (c : Config) (a : Nat) : Byte := if h : a < 80 then c.glyphRom[a] else 0

/-- The byte listed for an address. -/
def Memory.lookup : Memory → Nat → Option Byte
  | [], _ => none
  | (b, v) :: m, a => if a = b then some v else Memory.lookup m a

/-- The byte at an address; `d` says what an unlisted address reads as. -/
def Memory.read (d : Nat → Byte) (m : Memory) (a : Nat) : Byte := (Memory.lookup m a).getD (d a)

/-- List a byte at its place, or replace the one listed there. -/
def Memory.put (a : Nat) (v : Byte) : Memory → Memory
  | [] => [(a, v)]
  | (b, u) :: m =>
    if a < b then (a, v) :: (b, u) :: m
    else if a = b then (a, v) :: m
    else (b, u) :: Memory.put a v m

/-- Take an address off the list. -/
def Memory.erase (a : Nat) : Memory → Memory
  | [] => []
  | (b, u) :: m => if a = b then Memory.erase a m else (b, u) :: Memory.erase a m

/-- Write a byte, keeping the canonical form. -/
def Memory.write (d : Nat → Byte) (a : Nat) (v : Byte) (m : Memory) : Memory :=
  if v = d a then Memory.erase a m else Memory.put a v m

/-- Addresses rise strictly from `lo` on and stay below 4096, and no entry equals what its address reads as unlisted. -/
def Memory.wfFrom (d : Nat → Byte) : Nat → Memory → Bool
  | _, [] => true
  | lo, (b, v) :: m => decide (lo ≤ b) && decide (b < 4096) && decide (v ≠ d b) && Memory.wfFrom d (b + 1) m

/-- The canonical form of memory. -/
def Memory.wf (d : Nat → Byte) (m : Memory) : Bool := Memory.wfFrom d 0 m

/-- The byte at an address as memory stands, without the bounds check of R62. -/
def State.readByte (s : State) (a : Nat) : Byte := Memory.read (resetByte s.cfg) s.mem a

/-- Store a byte without the bounds check of R62. -/
def State.writeByte (a : Nat) (b : Byte) (s : State) : State :=
  { s with mem := Memory.write (resetByte s.cfg) a b s.mem }

/-- `MemRead(a, 1)`: bounds first, the address an exact number (R11, R62). -/
def State.memRead (s : State) (a : Nat) : Except FaultKind Byte :=
  if a > 0xFFF then .error .outOfBoundsMemoryAccess else .ok (s.readByte a)

/-- `MemWrite(a, 1, b)`: bounds first (R11, R62). -/
def State.memWrite (a : Nat) (b : Byte) (s : State) : Except FaultKind State :=
  if a > 0xFFF then .error .outOfBoundsMemoryAccess else .ok (s.writeByte a b)

/-- Store bytes at ascending addresses, each bounds-checked on its own; the first fault ends it and the bytes before it
stay (R65). -/
def State.storeBlock : List Byte → Nat → State → State × Option FaultKind
  | [], _, s => (s, none)
  | b :: bs, a, s =>
    match s.memWrite a b with
    | .error k => (s, some k)
    | .ok t => State.storeBlock bs (a + 1) t

/-- Load registers from ascending addresses, each bounds-checked on its own; the first fault ends it and the registers
before it stay (R65). -/
def State.loadBlock : List Reg → Nat → State → State × Option FaultKind
  | [], _, s => (s, none)
  | r :: rs, a, s =>
    match s.memRead a with
    | .error k => (s, some k)
    | .ok b => State.loadBlock rs (a + 1) (s.setV r b)

/-- Read `n` bytes at ascending addresses, each bounds-checked (R65, R220). -/
def State.readRows : Nat → Nat → State → Except FaultKind (List Byte)
  | 0, _, _ => .ok []
  | n + 1, a, s =>
    match s.memRead a with
    | .error k => .error k
    | .ok b =>
      match State.readRows n (a + 1) s with
      | .error k => .error k
      | .ok bs => .ok (b :: bs)

/-! ### The return stack -/

/-- `Push(w)` (R29). -/
def State.push (w : Word) (s : State) : Except FaultKind State :=
  if h : s.sp.val < 16 then
    .ok { s with stack := s.stack.set s.sp.val w h, sp := ⟨s.sp.val + 1, by omega⟩ }
  else .error .stackOverflow

/-- `Pop()`: the popped entry keeps its value (R30). -/
def State.pop (s : State) : Except FaultKind (Word × State) :=
  if h : s.sp.val = 0 then .error .stackUnderflow
  else
    .ok (s.stack[s.sp.val - 1]'(by omega), { s with sp := ⟨s.sp.val - 1, by omega⟩ })

/-! ### Draws and outputs -/

/-- The coming reply of `rnd`: State's, else the free value (R178, log 4). -/
def State.rndDraw (s : State) : Byte := s.draws.rnd.headD (Config.freeRnd s.draws.count)

/-- The coming reply of `keys` (R40, log 4). -/
def State.keysDraw (s : State) : Word := s.draws.keys.headD (Config.freeKeys s.draws.count)

/-- The coming reply of `disp_collision` (R220, log 4). -/
def State.collisionDraw (s : State) : Bool := s.draws.collision.headD (Config.freeCollision s.draws.count)

/-- The reply of `rnd` is used up: the next draw is fresh (R37). -/
def State.dropRnd (s : State) : State :=
  { s with draws := { s.draws with rnd := s.draws.rnd.tail, count := s.draws.count + 1 } }

/-- The reply of `keys` is used up. -/
def State.dropKeys (s : State) : State :=
  { s with draws := { s.draws with keys := s.draws.keys.tail, count := s.draws.count + 1 } }

/-- The reply of `disp_collision` is used up. -/
def State.dropCollision (s : State) : State :=
  { s with draws := { s.draws with collision := s.draws.collision.tail, count := s.draws.count + 1 } }

/-- Emit a request on a display output (R41). -/
def State.emit (r : DispRequest) (s : State) : State := { s with dispOut := s.dispOut ++ [r] }

/-! ### The end of a run, faults -/

/-- `run_state` leaves RUNNING: from that moment each timer agent may take one more decrement (R261). -/
def State.stop (r : RunState) (s : State) : State :=
  { s with runState := r, postStopDt := true, postStopSt := true }

/-- `raise Fault(k)`: TAKING THE FAULT, the engine's only exception (R12, R240, R243). The kind is recorded, the run is
FAULTED, `PC` keeps the faulting instruction's address. There is no handler and no return (R245): only `State.rst`
leaves FAULTED. -/
def State.takeFault (k : FaultKind) (s : State) : State :=
  { s.stop .faulted with faultKind := some k }

/-- A fault's code (R241). -/
def FaultKind.code : FaultKind → BitVec 3
  | .malformedProgramImage => 1
  | .stackOverflow => 2
  | .stackUnderflow => 3
  | .unrecognizedOpcode => 4
  | .unimplementedOpcode => 5
  | .outOfBoundsMemoryAccess => 6

/-- The output `run_state` (R34). -/
def RunState.code : RunState → BitVec 2
  | .running => 0
  | .halted => 1
  | .faulted => 2

/-- The output `fault_kind` (R35, R241). -/
def State.faultCode (s : State) : BitVec 3 :=
  match s.faultKind with
  | none => 0
  | some k => k.code

/-- The output `exit_status`: no value while RUNNING, where it is not meaningful (R41). -/
def State.exitStatus (s : State) : Option (BitVec 3) :=
  match s.runState with
  | .running => none
  | .halted => some 0
  | .faulted => some s.faultCode

/-! ### The end of an instruction -/

/-- A handler sets `outcome` (R13). -/
def State.setOutcome (o : InstrOutcome) (s : State) : State := { s with outcome := some o }

/-- The loop consumes `outcome` and moves `PC` (R106, R107). -/
def State.consumeOutcome (s : State) : State :=
  match s.outcome with
  | none => s
  | some .jump => { s with outcome := none }
  | some .skip => { s with pc := s.pc + 4, outcome := none }
  | some .next => { s with pc := s.pc + 2, outcome := none }
  | some .halt => { s.stop .halted with outcome := none }

/-- The handler's outcome, set and consumed (R102, R106). -/
def State.retire (o : InstrOutcome) (s : State) : State := (s.setOutcome o).consumeOutcome

/-- The end of a block transfer: NEXT, or the fault at the byte that raised it (R12, R65). -/
def finishBlock : State × Option FaultKind → Result
  | (s, none) => .next (s.retire .next)
  | (s, some k) => .next (s.takeFault k)

end Sys2Proof.Machine
end

