-- ==== Sys2Proof/Machine/Operands.lean ====
section
/-! DEFINITION. The operand forms: addresses, register ranges, the digit and key a register selects (R89). -/

namespace Sys2Proof.Machine

/-- `zext_16(nnn)` (R9, R89). -/
def addrWord (nnn : Addr12) : Word := nnn.setWidth 16

/-- `zext_16(v)` of a register (R9). -/
def byteWord (b : Byte) : Word := b.setWidth 16

/-- `V[0]`..`V[x]` in ascending order (R205, R207). -/
def regsUpTo (x : Reg) : List Reg :=
  [0, 1, 2, 3, 4, 5, 6, 7, 8, 9, 10, 11, 12, 13, 14, 15].take (x.val + 1)

/-- The first address of a transfer through `I`, an exact number (R62). -/
def State.blockBase (s : State) : Nat := s.i.toNat

/-- The address of the glyph a register selects by its low nibble (R195). -/
def glyphAddr (b : Byte) : Word := BitVec.ofNat 16 (5 * (b.toNat % 16))

/-- The key a register selects by its low nibble (R222, R223). -/
def keyIndex (b : Byte) : Nat := b.toNat % 16

/-- Whether the key a register selects is pressed: bit `k` of `keys` is key `k` (R40, R222). -/
def keyPressed (keys : Word) (b : Byte) : Bool := keys.getLsbD (keyIndex b)

/-- The index of the lowest set bit of `keys`, `none` where no bit is set (R226). -/
def lowestKey (keys : Word) : Option Nat :=
  (List.range 16).find? fun k => keys.getLsbD k

/-- Hundreds, tens and ones of a byte (R203). -/
def bcdDigits (b : Byte) : List Byte := [b / 100, b / 10 % 10, b % 10]

end Sys2Proof.Machine
end

