-- ==== Sys2Proof/Machine/AddressTimer.lean ====
section
/-! DEFINITION. Address register, timers and block memory (44_address_timer_memory.md). -/

namespace Sys2Proof.Machine

/-- LD I, nnn (R190). -/
def execLdI (nnn : Addr12) (s : State) : Result := .next ((s.setI (addrWord nnn)).retire .next)

/-- LD Vx, DT (R191). -/
def execLdVxDt (x : Reg) (s : State) : Result := .next ((s.setV x s.dt).retire .next)

/-- LD DT, Vx (R192). -/
def execLdDtVx (x : Reg) (s : State) : Result := .next ((s.setDt (s.getV x)).retire .next)

/-- LD ST, Vx: the latch is not touched, so a pending write phase overwrites this value (R193, R259). -/
def execLdStVx (x : Reg) (s : State) : Result := .next ((s.setSt (s.getV x)).retire .next)

/-- ADD I, Vx: mod 65536, VF not touched (R194). -/
def execAddIVx (x : Reg) (s : State) : Result := .next ((s.setI (s.i + byteWord (s.getV x))).retire .next)

/-- LD F, Vx: the glyph of the low nibble; no memory is read (R195). -/
def execLdFVx (x : Reg) (s : State) : Result := .next ((s.setI (glyphAddr (s.getV x))).retire .next)

/-- LD B, Vx: three digits at `I`, `I+1`, `I+2` where BCD is implemented (R203). -/
def execLdBVx (x : Reg) (s : State) : Result :=
  if s.cfg.bcdImplemented then finishBlock (s.storeBlock (bcdDigits (s.getV x)) s.blockBase)
  else .next (s.takeFault .unimplementedOpcode)

/-- LD [I], Vx: `V[0]`..`V[x]` to memory, `I` unchanged (R205). -/
def execLdMemVx (x : Reg) (s : State) : Result :=
  finishBlock (s.storeBlock ((regsUpTo x).map s.getV) s.blockBase)

/-- LD Vx, [I]: memory to `V[0]`..`V[x]`, `I` unchanged (R207). -/
def execLdVxMem (x : Reg) (s : State) : Result := finishBlock (s.loadBlock (regsUpTo x) s.blockBase)

end Sys2Proof.Machine
end

