-- ==== Sys2Proof/Machine/Flags.lean ====
section
/-! DEFINITION. carry_flag_compute: what each flag-writing operation of family 0x8 puts in VF (R167), and the display's
collision flag (R220). -/

namespace Sys2Proof.Machine

/-- A flag as VF's value, 0 or 1 (R167). -/
def flagByte (b : Bool) : Byte := if b then 1 else 0

/-- ADD's flag is the LITERAL predicate "vx > 128 and vy > 128", not the carry (R167, R168, 90_conflicts.md C3). -/
def flagAdd (vx vy : Byte) : Byte := flagByte (decide (vx.toNat > 128) && decide (vy.toNat > 128))

/-- SUB's flag, strict (R167). -/
def flagSub (vx vy : Byte) : Byte := flagByte (decide (vx.toNat > vy.toNat))

/-- SUBN's flag, strict (R167). -/
def flagSubn (vx vy : Byte) : Byte := flagByte (decide (vy.toNat > vx.toNat))

/-- SHR's flag: the low bit before the shift (R167). -/
def flagShr (vx : Byte) : Byte := flagByte (vx.getLsbD 0)

/-- SHL's flag: the high bit before the shift (R167). -/
def flagShl (vx : Byte) : Byte := flagByte (vx.getLsbD 7)

end Sys2Proof.Machine
end

