-- ==== Sys2Proof/Machine/Alu.lean ====
section
/-! DEFINITION. Loads, arithmetic, logic and random (43_alu.md). Byte arithmetic is mod 256 (R180). -/

namespace Sys2Proof.Machine

/-- Write a result to `V[x]`, no flag. -/
def writeResult (x : Reg) (r : Byte) (s : State) : Result := .next ((s.setV x r).retire .next)

/-- Write a result to `V[x]`, THEN the flag to `V[15]`: with `x = 15` the flag stays (R166). -/
def writeResultFlag (x : Reg) (r flag : Byte) (s : State) : Result :=
  .next (((s.setV x r).setV 15 flag).retire .next)

/-- LD Vx, kk (R160). -/
def execLdVxKk (x : Reg) (kk : Byte) (s : State) : Result := writeResult x kk s

/-- ADD Vx, kk: wraps, no flag (R161). -/
def execAddVxKk (x : Reg) (kk : Byte) (s : State) : Result := writeResult x (s.getV x + kk) s

/-- LD Vx, Vy (R162). -/
def execLdVxVy (x y : Reg) (s : State) : Result := writeResult x (s.getV y) s

/-- OR Vx, Vy (R163). -/
def execOrVxVy (x y : Reg) (s : State) : Result := writeResult x (s.getV x ||| s.getV y) s

/-- AND Vx, Vy (R164). -/
def execAndVxVy (x y : Reg) (s : State) : Result := writeResult x (s.getV x &&& s.getV y) s

/-- XOR Vx, Vy (R165). -/
def execXorVxVy (x y : Reg) (s : State) : Result := writeResult x (s.getV x ^^^ s.getV y) s

/-- ADD Vx, Vy (R168). -/
def execAddVxVy (x y : Reg) (s : State) : Result :=
  writeResultFlag x (s.getV x + s.getV y) (flagAdd (s.getV x) (s.getV y)) s

/-- SUB Vx, Vy (R170). -/
def execSub (x y : Reg) (s : State) : Result :=
  writeResultFlag x (s.getV x - s.getV y) (flagSub (s.getV x) (s.getV y)) s

/-- SHR Vx: `V[x]` in place, `y` not read (R172). -/
def execShr (x _y : Reg) (s : State) : Result :=
  writeResultFlag x (s.getV x >>> 1) (flagShr (s.getV x)) s

/-- SUBN Vx, Vy (R174). -/
def execSubn (x y : Reg) (s : State) : Result :=
  writeResultFlag x (s.getV y - s.getV x) (flagSubn (s.getV x) (s.getV y)) s

/-- SHL Vx: `V[x]` in place, `y` not read (R176). -/
def execShl (x _y : Reg) (s : State) : Result :=
  writeResultFlag x (s.getV x <<< 1) (flagShl (s.getV x)) s

/-- RND Vx, kk: a fresh draw masked by `kk` (R178). -/
def execRnd (x : Reg) (kk : Byte) (s : State) : Result := writeResult x (s.rndDraw &&& kk) s.dropRnd

end Sys2Proof.Machine
end

