-- ==== Sys2Proof/Machine/Skips.lean ====
section
/-! DEFINITION. Conditional skips (42_skips.md). -/

namespace Sys2Proof.Machine

/-- SKIP where the condition holds, else NEXT; the skipped word is not fetched (R106, R145). -/
def skipIf (c : Bool) (s : State) : Result := .next (s.retire (if c then .skip else .next))

/-- SE Vx, kk (R140). -/
def execSeVxKk (x : Reg) (kk : Byte) (s : State) : Result := skipIf (s.getV x == kk) s

/-- SNE Vx, kk (R141). -/
def execSneVxKk (x : Reg) (kk : Byte) (s : State) : Result := skipIf (s.getV x != kk) s

/-- SE Vx, Vy (R142). -/
def execSeVxVy (x y : Reg) (s : State) : Result := skipIf (s.getV x == s.getV y) s

/-- SNE Vx, Vy (R143). -/
def execSneVxVy (x y : Reg) (s : State) : Result := skipIf (s.getV x != s.getV y) s

end Sys2Proof.Machine
end

