-- ==== Sys2Proof/Machine/Collaborators.lean ====
section
/-! DEFINITION. Display and keypad instructions (45_collaborators.md). -/

namespace Sys2Proof.Machine

/-- DRW Vx, Vy, n: read the rows, emit the request with the OLD `V[x]` and `V[y]`, then VF takes the display's reply; the
row reads fault before any request (R220). -/
def execDrw (x y : Reg) (n : Nibble) (s : State) : Result :=
  if s.cfg.displayPresent then
    match s.readRows n.toNat s.blockBase with
    | .error k => .next (s.takeFault k)
    | .ok rows =>
      .next (((s.emit (.draw (s.getV x) (s.getV y) rows)).dropCollision.setV 15 (flagByte s.collisionDraw)).retire .next)
  else .next (s.takeFault .unimplementedOpcode)

/-- SKP Vx (R222). -/
def execSkp (x : Reg) (s : State) : Result :=
  if s.cfg.keypadPresent then skipIf (keyPressed s.keysDraw (s.getV x)) s.dropKeys
  else .next (s.takeFault .unimplementedOpcode)

/-- SKNP Vx (R223). -/
def execSknp (x : Reg) (s : State) : Result :=
  if s.cfg.keypadPresent then skipIf (!keyPressed s.keysDraw (s.getV x)) s.dropKeys
  else .next (s.takeFault .unimplementedOpcode)

/-- LD Vx, K: with no key pressed `PC` stays and the instruction runs again; else the lowest pressed key (R226). -/
def execLdVxK (x : Reg) (s : State) : Result :=
  if s.cfg.keypadPresent then
    match lowestKey s.keysDraw with
    | none => .next (s.dropKeys.retire .jump)
    | some k => .next ((s.dropKeys.setV x (BitVec.ofNat 8 k)).retire .next)
  else .next (s.takeFault .unimplementedOpcode)

end Sys2Proof.Machine
end

