-- ==== Sys2Proof/Machine/Misc.lean ====
section
/-! DEFINITION. Family 0x0, jumps and calls (41_misc_flow.md). -/

namespace Sys2Proof.Machine

/-- CLS: emit `disp_clear`, whether or not a display is present (R120). -/
def execCls (s : State) : Result := .next ((s.emit .clear).retire .next)

/-- RET: `PC <- Pop()`, StackUnderflow when empty (R121). -/
def execRet (s : State) : Result :=
  match s.pop with
  | .error k => .next (s.takeFault k)
  | .ok (w, t) => .next ((t.setPc w).retire .jump)

/-- HALT: the loop enters HALTED, `PC` keeps its address (R122). -/
def execHalt (s : State) : Result := .next (s.retire .halt)

/-- JP nnn (R123). -/
def execJp (nnn : Addr12) (s : State) : Result := .next ((s.setPc (addrWord nnn)).retire .jump)

/-- CALL nnn: push the next slot's address, StackOverflow when full (R124). -/
def execCall (nnn : Addr12) (s : State) : Result :=
  match s.push (s.pc + 2) with
  | .error k => .next (s.takeFault k)
  | .ok t => .next ((t.setPc (addrWord nnn)).retire .jump)

/-- JP V0, nnn: the exact sum, at most 0x10FE (R125). -/
def execJpV0 (nnn : Addr12) (s : State) : Result :=
  .next ((s.setPc (addrWord nnn + byteWord (s.getV 0))).retire .jump)

end Sys2Proof.Machine
end

