-- ==== Sys2Proof/Machine/Reset.lean ====
section
/-! DEFINITION. Reset and program load (70_reset_and_hazards.md R280-R285). -/

namespace Sys2Proof.Machine

/-- Steps (1) and (2): every field at its reset value and memory at the glyphs of this machine's GLYPH_ROM (R281, R284).
The configuration and the environment's data are no state of the run (R43) and stay. -/
def State.zeroed (s : State) : State :=
  { State.reset with cfg := s.cfg, draws := s.draws, schedule := s.schedule }

/-- Step (4): the image's bytes at ascending addresses (R283). -/
def State.loadImage : List Byte → Nat → State → State
  | [], _, s => s
  | b :: bs, a, s => State.loadImage bs (a + 1) (s.writeByte a b)

/-- The event `rst` with an image: steps (1) to (4) of R280, in any state. A malformed image is not written, and the run
starts FAULTED (R282). -/
def State.rst (image : List Byte) (s : State) : State :=
  if imageWellFormed image then s.zeroed.loadImage image 0x200
  else { s.zeroed with runState := .faulted, faultKind := some .malformedProgramImage }

end Sys2Proof.Machine
end

