-- ==== Sys2Proof/Machine/Timers.lean ====
section
/-! DEFINITION. The timer agents' steps (60_exceptions.md R255-R261). -/

namespace Sys2Proof.Machine

/-- The delay-timer step on `tick_dt` (R256); a decrement after the stop uses up the permission (R261). -/
def State.tickDt (s : State) : State :=
  if s.runState = .running ∨ s.postStopDt = true then
    if s.dt ≠ 0 then { s with dt := s.dt - 1, postStopDt := false } else s
  else s

/-- The sound-timer step on `tick_st`: one atomic decrement where guarded (R257), else the read phase, which needs an
empty latch (R258). -/
def State.tickSt (s : State) : State :=
  if s.runState = .running ∨ s.postStopSt = true then
    if s.st ≠ 0 then
      if s.cfg.soundTimerGuarded then { s with st := s.st - 1, postStopSt := false }
      else
        match s.stLatch with
        | none => { s with stLatch := some s.st }
        | some _ => s
    else s
  else s

/-- The unguarded write phase, enabled while the latch holds a value, after the stop too (R259, R261). -/
def State.stWrite (s : State) : State :=
  if s.cfg.soundTimerGuarded then s
  else
    match s.stLatch with
    | none => s
    | some l => { s with st := l - 1, stLatch := none, postStopSt := false }

end Sys2Proof.Machine
end

