-- ==== Sys2Proof/Machine/Loop.lean ====
section
/-! DEFINITION. The execution loop's step (40_execution_loop.md) and the agents' steps. -/

namespace Sys2Proof.Machine

/-- The fetch: both bytes in bounds, the high byte first (R63, R103). -/
def State.fetch (s : State) : Except FaultKind Word :=
  if s.pc.toNat + 1 > 0xFFF then .error .outOfBoundsMemoryAccess
  else .ok (wordOfBytes (s.readByte s.pc.toNat) (s.readByte (s.pc.toNat + 1)))

/-- The fault of a word that names no instruction, by its family (R91, R224); with a keypad absent all of family 0xE is
unimplemented (R92). -/
def rejectKind (c : Config) : DecodeReject → FaultKind
  | .family0 => .unimplementedOpcode
  | .family5 => .unrecognizedOpcode
  | .family8 => .unrecognizedOpcode
  | .family9 => .unrecognizedOpcode
  | .familyE => if c.keypadPresent then .unrecognizedOpcode else .unimplementedOpcode
  | .familyF => .unrecognizedOpcode
  | .truncated => .outOfBoundsMemoryAccess

/-- One word, decoded and run, or its decode fault (R94, R104, R105). -/
def runWord (w : Word) (s : State) : Result :=
  match decodeWord w with
  | .ok i => exec i s
  | .error r => .next (s.takeFault (rejectKind s.cfg r))

/-- The execution loop's step: one instruction, enabled exactly when RUNNING (R101, R102). -/
def loopStep (s : State) : Result :=
  match s.runState with
  | .halted => .fault .loopHalted
  | .faulted => .fault .loopFaulted
  | .running =>
    match s.fetch with
    | .error k => .next (s.takeFault k)
    | .ok w => runWord w s

/-- One step of the agent whose turn it is (R248, R255, R280). An agent with nothing to do leaves the state as it is. -/
def agentStep (a : Agent) (s : State) : Result :=
  match a with
  | .loop => loopStep s
  | .tickDt => .next s.tickDt
  | .tickSt => .next s.tickSt
  | .stWrite => .next s.stWrite
  | .rst image => .next (s.rst image)

/-- Take the first agent off the schedule. -/
def State.popSchedule (s : State) : State := { s with schedule := s.schedule.tail }

/-- The agent whose turn it is: the schedule's first, the execution loop where the schedule is empty (log 3). -/
def State.nextAgent (s : State) : Agent := s.schedule.headD .loop

end Sys2Proof.Machine
end

