-- ==== Sys2Proof/Machine/Step.lean ====
section
/-! DEFINITION. One step of the machine, and the host's way to have one instruction run next. -/

namespace Sys2Proof.Machine

/-- One step: the scheduled agent's, or the execution loop's (R102, R248, R292, log 3). -/
def step (s : State) : Host.Outcome State Fault Refusal := agentStep s.nextAgent s.popSchedule

/-- RUNNING again, as after a reset, where the run has ended. -/
def State.resumed (s : State) : State :=
  match s.runState with
  | .running => s
  | _ => { s with runState := .running, faultKind := none, postStopDt := false, postStopSt := false }

/-- `PC` at the program base where it is no address that can be fetched (R103, R285). -/
def State.fetchable (s : State) : State := if s.pc.toNat + 1 > 0xFFF then { s with pc := 0x200 } else s

/-- The execution loop's turn next. -/
def State.loopNext (s : State) : State :=
  match s.nextAgent with
  | .loop => s
  | _ => { s with schedule := .loop :: s.schedule }

/-- The state with an instruction stored where `step` fetches next; it stands for the load of a program (log 8). -/
def State.withFetchWord (s : State) (nbits w : Nat) : State :=
  let t := s.resumed.fetchable.loopNext
  t.loadImage (tableBytes nbits w) t.pc.toNat

end Sys2Proof.Machine
end

