-- ==== Sys2Proof/Safety.lean ====
section
/-! DEFINITION. The terms claims are made in: parts of the state and frames, taking a fault, the invariant, runs. -/

namespace Sys2Proof.Machine

/-- The parts a step can change, one for each piece of state. -/
inductive Part where
  | v (r : Reg)
  | i
  | pc
  | sp
  | entry (k : Reg)
  | dt
  | st
  | runState
  | faultKind
  | outcome
  | stLatch
  | postStopDt
  | postStopSt
  | byte (a : Nat)
  | cfg
  | dispOut
  | draws
  | schedule
  deriving DecidableEq, Repr

/-- Two states agree on a part; memory is compared byte by byte, through the read of one byte. -/
def SamePart (p : Part) (s t : State) : Prop :=
  match p with
  | .v r => t.getV r = s.getV r
  | .i => t.i = s.i
  | .pc => t.pc = s.pc
  | .sp => t.sp = s.sp
  | .entry k => t.stack[k] = s.stack[k]
  | .dt => t.dt = s.dt
  | .st => t.st = s.st
  | .runState => t.runState = s.runState
  | .faultKind => t.faultKind = s.faultKind
  | .outcome => t.outcome = s.outcome
  | .stLatch => t.stLatch = s.stLatch
  | .postStopDt => t.postStopDt = s.postStopDt
  | .postStopSt => t.postStopSt = s.postStopSt
  | .byte a => t.readByte a = s.readByte a
  | .cfg => t.cfg = s.cfg
  | .dispOut => t.dispOut = s.dispOut
  | .draws => t.draws = s.draws
  | .schedule => t.schedule = s.schedule

/-- The frame: every part that is not listed is as before. -/
def ChangesOnly (ps : List Part) (s t : State) : Prop := ∀ p, p ∉ ps → SamePart p s t

/-- The registers a condition picks, as parts. -/
def Part.regs (c : Reg → Bool) : List Part := ((List.finRange 16).filter c).map Part.v

/-- The `n` bytes from address `a` on, as parts. -/
def Part.bytes (a n : Nat) : List Part := (List.range n).map fun k => Part.byte (a + k)

/-- What the end of an instruction always writes (R106). -/
def Part.flow : List Part := [.pc, .outcome]

/-- The parts that taking a fault writes (R243, R261). -/
def Part.fault : List Part := [.runState, .faultKind, .postStopDt, .postStopSt]

/-- NEXT: one slot of two bytes, the outcome consumed (R106). -/
def NextSlot (s t : State) : Prop := t.pc = s.pc + 2 ∧ t.outcome = none

/-- SKIP: two slots (R106). -/
def SkipSlot (s t : State) : Prop := t.pc = s.pc + 4 ∧ t.outcome = none

/-- The fault `k` is recorded (R243). -/
def FaultRecorded (k : FaultKind) (t : State) : Prop := t.runState = .faulted ∧ t.faultKind = some k

/-- The fault `k` is taken and nothing else is written: `PC` keeps the faulting instruction's address (R243, R244). -/
def TakesFault (k : FaultKind) (s t : State) : Prop := FaultRecorded k t ∧ ChangesOnly Part.fault s t

/-- `w` is the one word that decodes to the instruction (R90). -/
def EncodedAs (i : Instr) (w : Nat) : Prop := ∀ v : Word, decodeWord v = .ok i ↔ v = BitVec.ofNat 16 w

/-- What every step keeps. -/
structure State.Inv (s : State) : Prop where
  /-- Memory is in canonical form, no address above 0xFFF (R60). -/
  memory : Memory.wf (resetByte s.cfg) s.mem = true
  /-- No `PC` is above the greatest jump target (R26). -/
  pcBound : s.pc.toNat ≤ 0x10FE
  /-- No return address in use is above 0x1000 (R26). -/
  returnBound : ∀ k : Reg, k.val < s.sp.val → (s.stack[k]).toNat ≤ 0x1000
  /-- A fault kind is held exactly in FAULTED (R35). -/
  faultedIff : s.runState = .faulted ↔ s.faultKind ≠ none
  /-- Both post-stop bits are false while RUNNING (R38). -/
  noPostStop : s.runState = .running → s.postStopDt = false ∧ s.postStopSt = false
  /-- No outcome survives an instruction (R36). -/
  noOutcome : s.outcome = none
  /-- A guarded sound timer's latch is empty (R38). -/
  guardedLatch : s.cfg.soundTimerGuarded = true → s.stLatch = none
  /-- The latch holds no zero (R258). -/
  latchNonzero : s.stLatch ≠ some 0
  /-- A latch that is full after the stop has its write phase still to come (R261). -/
  stoppedLatch : s.runState ≠ .running → s.stLatch ≠ none → s.postStopSt = true

/-- `n` steps from `s` to `t` with at least `k` stack entries in use at every state on the way, both ends included. -/
def RunsAbove (k : Nat) : Nat → State → State → Prop
  | 0, s, t => t = s ∧ k ≤ s.sp.val
  | n + 1, s, t => k ≤ s.sp.val ∧ ∃ u, step s = .next u ∧ RunsAbove k n u t

/-- A safe run: in no state of the first `n` steps has the machine faulted. -/
def SafeRun (n : Nat) (s : State) : Prop :=
  ∀ k, k ≤ n → ∀ t, Sys2Proof.core.run k s = .next t → t.runState ≠ .faulted

/-- A state with another `DEBUG` parameter (R111). -/
def State.withDebug (b : Bool) (s : State) : State := { s with cfg := { s.cfg with debug := b } }

/-- A result with its next state changed by `f`. -/
def mapNext (f : State → State) : Result → Result
  | .next s => .next (f s)
  | .fault r => .fault r
  | .refused r => .refused r

end Sys2Proof.Machine
end

