-- ==== Sys2Proof/Certificates/Slice0/Obligations.lean ====
section
/-! DEFINITION. The statements for the provers. An addition to `PC` is written as the 16-bit sum; from a fetched
instruction it never wraps (R26). `log <n>` is notes/assumptions/<n>.md. -/

open Sys2Proof Sys2Proof.Machine

/-! ### Encoding -/

/-- Decoding the encoding of a well-formed instruction gives it back, as a word and as bytes in memory order
(R85, R87-R90, R95); the keypad words are the spec's general knowledge (R90, log 13). -/
def Obligations.DecodeReadsBackEncode : Prop :=
  ∀ i : Instr, i.wellFormed = true →
    decodeWord (encode i) = .ok i ∧ decodeBytes (encodeBytes i) = .ok i

/-- A word that names an instruction is that instruction's encoding: no bit of it is dropped, and no two words name
the same instruction with the same operands (R90, R95; the whole-word match of family 0x0 is the spec's decision D7,
log 17; the keypad words are the spec's general knowledge, R90, log 13). -/
def Obligations.EncodeReadsBackDecode : Prop :=
  ∀ (w : Word) (i : Instr), decodeWord w = .ok i → encode i = w

/-- The words that name no instruction are exactly those of R91's table, each rejected under its family's name (the
spec's decisions D7 and D8, log 17; that the keypad words are no such words is its general knowledge, R90, log 13). -/
def Obligations.RejectedWordsAreExactlyListed : Prop :=
  ∀ w : Word,
    (decodeWord w = .error .family0 ↔ w.toNat < 0x1000 ∧ w ≠ 0x00E0 ∧ w ≠ 0x00EE ∧ w ≠ 0x00FD) ∧
    (decodeWord w = .error .family5 ↔ w.toNat / 0x1000 = 0x5 ∧ w.toNat % 0x10 ≠ 0) ∧
    (decodeWord w = .error .family8 ↔
      w.toNat / 0x1000 = 0x8 ∧ w.toNat % 0x10 ∈ [0x8, 0x9, 0xA, 0xB, 0xC, 0xD, 0xF]) ∧
    (decodeWord w = .error .family9 ↔ w.toNat / 0x1000 = 0x9 ∧ w.toNat % 0x10 ≠ 0) ∧
    (decodeWord w = .error .familyE ↔ w.toNat / 0x1000 = 0xE ∧ w.toNat % 0x100 ∉ [0x9E, 0xA1]) ∧
    (decodeWord w = .error .familyF ↔
      w.toNat / 0x1000 = 0xF ∧
        w.toNat % 0x100 ∉ [0x07, 0x0A, 0x15, 0x18, 0x1E, 0x29, 0x33, 0x55, 0x65]) ∧
    decodeWord w ≠ .error .truncated

/-- Every field of every word is the source's shift and mask (R87). -/
def Obligations.FieldsAreShiftsAndMasks : Prop :=
  ∀ w : Word,
    (fields w).f.setWidth 16 = (w >>> 12) &&& 0xF ∧
    (fields w).x.setWidth 16 = (w >>> 8) &&& 0xF ∧
    (fields w).y.setWidth 16 = (w >>> 4) &&& 0xF ∧
    (fields w).n.setWidth 16 = w &&& 0xF ∧
    (fields w).kk.setWidth 16 = w &&& 0xFF ∧
    (fields w).nnn.setWidth 16 = w &&& 0xFFF

/-- Words written out bit by bit from R88 and R90, one or more of every format, decode to what they stand for. The
keypad word 0xE5A1 is the spec's general knowledge (R90, the spec's decision D16, log 13). -/
def Obligations.SampleWordsDecode : Prop :=
  decodeWord 0b0000000011100000 = .ok .cls ∧
  decodeWord 0b0001001000110100 = .ok (.jp 0x234) ∧
  decodeWord 0b0011000100101010 = .ok (.seVxKk 1 0x2A) ∧
  decodeWord 0b0101001000110000 = .ok (.seVxVy 2 3) ∧
  decodeWord 0b1000001000110110 = .ok (.shr 2 3) ∧
  decodeWord 0b1011001100000000 = .ok (.jpV0 0x300) ∧
  decodeWord 0b1101000000010101 = .ok (.drw 0 1 5) ∧
  decodeWord 0b1110010110100001 = .ok (.sknp 5) ∧
  decodeWord 0b1111001001010101 = .ok (.ldMemVx 2)

/-! ### The execution loop -/

/-- A step of the execution loop in RUNNING, with `PC` in bounds, runs the instruction that the two bytes at `PC`
decode to; around it stands only the schedule's first entry being used up (R102-R106, the spec's decision D2; the
schedule is log 3, and the outcome being consumed inside `exec` is log 7). -/
def Obligations.StepRunsDecodedInstruction : Prop :=
  ∀ (s : State) (i : Instr),
    s.runState = .running → s.nextAgent = .loop → s.pc.toNat ≤ 0xFFE →
    decodeBytes [s.readByte s.pc.toNat, s.readByte (s.pc.toNat + 1)] = .ok i → i.wellFormed = true →
    step s = exec i s.popSchedule

/-- A fetch with a byte above 0xFFF faults and `PC` keeps the out-of-range address (R103, the spec's decision D3,
log 21). -/
def Obligations.FetchPastMemoryFaults : Prop :=
  ∀ s : State, s.runState = .running → s.nextAgent = .loop → s.pc.toNat > 0xFFE →
    ∃ t, step s = .next t ∧ TakesFault .outOfBoundsMemoryAccess s.popSchedule t

/-- A fetched word that names no instruction faults and writes nothing: UnimplementedOpcode in family 0x0, and in
family 0xE while no keypad is present; UnrecognizedOpcode otherwise (R91, R94, R126, R144, R177, R209, R224; the
spec's decisions D7, D8, D16, log 17; `PC` held is D5, log 16). -/
def Obligations.UnmatchedWordFaults : Prop :=
  ∀ (s : State) (r : DecodeReject),
    s.runState = .running → s.nextAgent = .loop → s.pc.toNat ≤ 0xFFE →
    decodeBytes [s.readByte s.pc.toNat, s.readByte (s.pc.toNat + 1)] = .error r →
    ∃ t, step s = .next t ∧
      TakesFault
        (if (s.readByte s.pc.toNat).toNat / 0x10 = 0x0 then .unimplementedOpcode
         else if (s.readByte s.pc.toNat).toNat / 0x10 = 0xE ∧ s.cfg.keypadPresent = false then .unimplementedOpcode
         else .unrecognizedOpcode)
        s.popSchedule t

/-- HALTED and FAULTED are terminal: the loop has no step there, every other step but `rst` leaves all state unchanged
but the timers' own fields, and only `rst` leaves the run state (R101, R33, R266; the re-reset is the spec's decision
D34, log 20; the timers after the stop are D19, log 9). That the absent step is the outcome `.fault` is the model's
reading, log 6. -/
def Obligations.StoppedRunHasNoLoopStep : Prop :=
  ∀ s : State,
    (s.runState = .halted → s.nextAgent = .loop → step s = .fault .loopHalted) ∧
    (s.runState = .faulted → s.nextAgent = .loop → step s = .fault .loopFaulted) ∧
    (s.runState ≠ .running → ∀ t, step s = .next t → (∀ image, s.nextAgent ≠ .rst image) →
      ChangesOnly [.dt, .st, .stLatch, .postStopDt, .postStopSt, .schedule] s t)

/-- `run_state` moves only along the transitions of R100's table: by `rst`; from RUNNING to HALTED by the word 0x00FD;
from RUNNING to FAULTED by a fault of R241 other than the reset-time one (R100; the image check and the re-reset rows
are the spec's decisions D22 and D34, log 20). -/
def Obligations.RunStateTransitions : Prop :=
  ∀ s t : State, step s = .next t →
    (∀ image, s.nextAgent = .rst image →
      (imageWellFormed image = true → t.runState = .running) ∧
      (imageWellFormed image = false → t.runState = .faulted ∧ t.faultKind = some .malformedProgramImage)) ∧
    ((∀ image, s.nextAgent ≠ .rst image) → t.runState ≠ s.runState →
      s.runState = .running ∧ s.nextAgent = .loop ∧
        ((t.runState = .halted ∧ s.fetch = .ok 0x00FD) ∨
          (t.runState = .faulted ∧ ∃ k, t.faultKind = some k ∧ k ≠ .malformedProgramImage)))

/-! ### Loads, arithmetic, logic -/

/-- LD Vx, kk, the word 0x6xkk: `V[x]` takes `kk`, nothing else changes (R160). -/
def Obligations.LoadImmediate : Prop :=
  ∀ (x : Reg) (kk : Byte) (s : State), EncodedAs (.ldVxKk x kk) (0x6000 + x.val * 0x100 + kk.toNat) ∧
    ∃ t, exec (.ldVxKk x kk) s = .next t ∧ t.getV x = kk ∧ NextSlot s t ∧ ChangesOnly (.v x :: Part.flow) s t

/-- ADD Vx, kk, the word 0x7xkk: the sum mod 256 and no flag, whatever `x` is (R161). -/
def Obligations.AddImmediateWrapsWithoutFlag : Prop :=
  ∀ (x : Reg) (kk : Byte) (s : State), EncodedAs (.addVxKk x kk) (0x7000 + x.val * 0x100 + kk.toNat) ∧
    ∃ t, exec (.addVxKk x kk) s = .next t ∧ (t.getV x).toNat = ((s.getV x).toNat + kk.toNat) % 256 ∧
      NextSlot s t ∧ ChangesOnly (.v x :: Part.flow) s t

/-- Move (0x8xy0), OR (0x8xy1), AND (0x8xy2), XOR (0x8xy3) into `V[x]`, VF untouched unless `x = 15` (R162-R165;
direction and operands are the spec's decision D10, log 14). -/
def Obligations.MoveAndLogic : Prop :=
  ∀ (x y : Reg) (s : State),
    EncodedAs (.ldVxVy x y) (0x8000 + x.val * 0x100 + y.val * 0x10) ∧
    EncodedAs (.orVxVy x y) (0x8001 + x.val * 0x100 + y.val * 0x10) ∧
    EncodedAs (.andVxVy x y) (0x8002 + x.val * 0x100 + y.val * 0x10) ∧
    EncodedAs (.xorVxVy x y) (0x8003 + x.val * 0x100 + y.val * 0x10) ∧
    (∃ t, exec (.ldVxVy x y) s = .next t ∧ t.getV x = s.getV y ∧ NextSlot s t ∧ ChangesOnly (.v x :: Part.flow) s t) ∧
    (∃ t, exec (.orVxVy x y) s = .next t ∧ t.getV x = s.getV x ||| s.getV y ∧ NextSlot s t ∧
      ChangesOnly (.v x :: Part.flow) s t) ∧
    (∃ t, exec (.andVxVy x y) s = .next t ∧ t.getV x = s.getV x &&& s.getV y ∧ NextSlot s t ∧
      ChangesOnly (.v x :: Part.flow) s t) ∧
    (∃ t, exec (.xorVxVy x y) s = .next t ∧ t.getV x = s.getV x ^^^ s.getV y ∧ NextSlot s t ∧
      ChangesOnly (.v x :: Part.flow) s t)

/-- carry_flag_compute: the flag of each of the five operations, by sub-op of 0x8xy_, as a function of `vx` and `vy`,
where `x` is not 15 (R167; `x = 15` is `FlagOverwritesResultInVF`). ADD's flag is the literal predicate. -/
def Obligations.FlagTable : Prop :=
  ∀ (x y : Reg) (s : State), x ≠ 15 →
    EncodedAs (.addVxVy x y) (0x8000 + x.val * 0x100 + y.val * 0x10 + 0x4) ∧
    (∃ t, exec (.addVxVy x y) s = .next t ∧
      t.getV 15 = if (s.getV x).toNat > 128 ∧ (s.getV y).toNat > 128 then 1 else 0) ∧
    EncodedAs (.sub x y) (0x8000 + x.val * 0x100 + y.val * 0x10 + 0x5) ∧
    (∃ t, exec (.sub x y) s = .next t ∧
      t.getV 15 = if (s.getV x).toNat > (s.getV y).toNat then 1 else 0) ∧
    EncodedAs (.shr x y) (0x8000 + x.val * 0x100 + y.val * 0x10 + 0x6) ∧
    (∃ t, exec (.shr x y) s = .next t ∧ (t.getV 15).toNat = (s.getV x).toNat % 2) ∧
    EncodedAs (.subn x y) (0x8000 + x.val * 0x100 + y.val * 0x10 + 0x7) ∧
    (∃ t, exec (.subn x y) s = .next t ∧
      t.getV 15 = if (s.getV y).toNat > (s.getV x).toNat then 1 else 0) ∧
    EncodedAs (.shl x y) (0x8000 + x.val * 0x100 + y.val * 0x10 + 0xE) ∧
    (∃ t, exec (.shl x y) s = .next t ∧ (t.getV 15).toNat = (s.getV x).toNat / 128)

/-- ADD (0x8xy4), SUB (0x8xy5) and SUBN (0x8xy7) between registers: the results mod 256, from the operands as they were
before the instruction (R166, R168, R170, R174; destination and operand order are the spec's decision D10, log 14).
Beside `V[x]` only VF, `PC` and the consumed outcome change. -/
def Obligations.AddSubtractResults : Prop :=
  ∀ (x y : Reg) (s : State),
    EncodedAs (.addVxVy x y) (0x8004 + x.val * 0x100 + y.val * 0x10) ∧
    EncodedAs (.sub x y) (0x8005 + x.val * 0x100 + y.val * 0x10) ∧
    EncodedAs (.subn x y) (0x8007 + x.val * 0x100 + y.val * 0x10) ∧
    (∃ t, exec (.addVxVy x y) s = .next t ∧
      (x ≠ 15 → (t.getV x).toNat = ((s.getV x).toNat + (s.getV y).toNat) % 256) ∧
      NextSlot s t ∧ ChangesOnly (.v x :: .v 15 :: Part.flow) s t) ∧
    (∃ t, exec (.sub x y) s = .next t ∧
      (x ≠ 15 → (t.getV x).toNat = ((s.getV x).toNat + 256 - (s.getV y).toNat) % 256) ∧
      NextSlot s t ∧ ChangesOnly (.v x :: .v 15 :: Part.flow) s t) ∧
    (∃ t, exec (.subn x y) s = .next t ∧
      (x ≠ 15 → (t.getV x).toNat = ((s.getV y).toNat + 256 - (s.getV x).toNat) % 256) ∧
      NextSlot s t ∧ ChangesOnly (.v x :: .v 15 :: Part.flow) s t)

/-- SHR (0x8xy6) and SHL (0x8xyE) shift `V[x]` in place by one and never read `y` (R172, R176; the spec's decisions D9
and D11, log 14). -/
def Obligations.ShiftResults : Prop :=
  ∀ (x y : Reg) (s : State),
    EncodedAs (.shr x y) (0x8006 + x.val * 0x100 + y.val * 0x10) ∧
    EncodedAs (.shl x y) (0x800E + x.val * 0x100 + y.val * 0x10) ∧
    (∃ t, exec (.shr x y) s = .next t ∧ (x ≠ 15 → (t.getV x).toNat = (s.getV x).toNat / 2) ∧
      NextSlot s t ∧ ChangesOnly (.v x :: .v 15 :: Part.flow) s t) ∧
    (∃ t, exec (.shl x y) s = .next t ∧ (x ≠ 15 → (t.getV x).toNat = ((s.getV x).toNat * 2) % 256) ∧
      NextSlot s t ∧ ChangesOnly (.v x :: .v 15 :: Part.flow) s t) ∧
    (∀ z : Reg, exec (.shr x y) s = exec (.shr x z) s ∧ exec (.shl x y) s = exec (.shl x z) s)

/-- With `x = 15` the flag overwrites the result in VF, computed from the OLD VF, and every other register stays: beside
VF only `PC` and the consumed outcome change (R166, the spec's decision D9, log 14). -/
def Obligations.FlagOverwritesResultInVF : Prop :=
  ∀ (y : Reg) (s : State),
    (∃ t, exec (.addVxVy 15 y) s = .next t ∧
      (t.getV 15 = if (s.getV 15).toNat > 128 ∧ (s.getV y).toNat > 128 then 1 else 0) ∧
      ChangesOnly (.v 15 :: Part.flow) s t) ∧
    (∃ t, exec (.sub 15 y) s = .next t ∧
      (t.getV 15 = if (s.getV 15).toNat > (s.getV y).toNat then 1 else 0) ∧
      ChangesOnly (.v 15 :: Part.flow) s t) ∧
    (∃ t, exec (.shr 15 y) s = .next t ∧ (t.getV 15).toNat = (s.getV 15).toNat % 2 ∧
      ChangesOnly (.v 15 :: Part.flow) s t) ∧
    (∃ t, exec (.subn 15 y) s = .next t ∧
      (t.getV 15 = if (s.getV y).toNat > (s.getV 15).toNat then 1 else 0) ∧
      ChangesOnly (.v 15 :: Part.flow) s t) ∧
    (∃ t, exec (.shl 15 y) s = .next t ∧ (t.getV 15).toNat = (s.getV 15).toNat / 128 ∧
      ChangesOnly (.v 15 :: Part.flow) s t)

/-- RND Vx, kk (0xCxkk): the draw masked by `kk`, for every value of the draw, which is then used up (R178, R37; free
draws are the spec's decision D20; where State fixes no draw it is the free value of log 4). -/
def Obligations.RandomByteMasked : Prop :=
  ∀ (x : Reg) (kk : Byte) (s : State), EncodedAs (.rnd x kk) (0xC000 + x.val * 0x100 + kk.toNat) ∧
    ∃ t, exec (.rnd x kk) s = .next t ∧ t.getV x = s.rndDraw &&& kk ∧
      (∀ r rest, s.draws.rnd = r :: rest → s.rndDraw = r) ∧
      t.draws = { s.draws with rnd := s.draws.rnd.tail, count := s.draws.count + 1 } ∧
      NextSlot s t ∧ ChangesOnly (.v x :: .draws :: Part.flow) s t

/-! ### Skips, jumps, calls -/

/-- SE Vx, kk (0x3xkk) and SNE Vx, kk (0x4xkk): four bytes on where the condition holds, else two; nothing else changes
(R140, R141). -/
def Obligations.SkipOnImmediate : Prop :=
  ∀ (x : Reg) (kk : Byte) (s : State),
    EncodedAs (.seVxKk x kk) (0x3000 + x.val * 0x100 + kk.toNat) ∧
    EncodedAs (.sneVxKk x kk) (0x4000 + x.val * 0x100 + kk.toNat) ∧
    (∃ t, exec (.seVxKk x kk) s = .next t ∧ (s.getV x = kk → SkipSlot s t) ∧ (s.getV x ≠ kk → NextSlot s t) ∧
      ChangesOnly Part.flow s t) ∧
    (∃ t, exec (.sneVxKk x kk) s = .next t ∧ (s.getV x ≠ kk → SkipSlot s t) ∧ (s.getV x = kk → NextSlot s t) ∧
      ChangesOnly Part.flow s t)

/-- SE Vx, Vy (0x5xy0) and SNE Vx, Vy (0x9xy0): four bytes on where the condition holds, else two; nothing else changes
(R142, R143). -/
def Obligations.SkipOnRegisters : Prop :=
  ∀ (x y : Reg) (s : State),
    EncodedAs (.seVxVy x y) (0x5000 + x.val * 0x100 + y.val * 0x10) ∧
    EncodedAs (.sneVxVy x y) (0x9000 + x.val * 0x100 + y.val * 0x10) ∧
    (∃ t, exec (.seVxVy x y) s = .next t ∧ (s.getV x = s.getV y → SkipSlot s t) ∧
      (s.getV x ≠ s.getV y → NextSlot s t) ∧ ChangesOnly Part.flow s t) ∧
    (∃ t, exec (.sneVxVy x y) s = .next t ∧ (s.getV x ≠ s.getV y → SkipSlot s t) ∧
      (s.getV x = s.getV y → NextSlot s t) ∧ ChangesOnly Part.flow s t)

/-- JP nnn (0x1nnn) and JP V0, nnn (0xBnnn): the target is exact, not reduced mod 4096; the jump itself never faults,
and a target above 0xFFE faults at the next fetch (R123, R125). The fetch bound, 0xFFF included, with `PC` held, is
R103, the spec's decision D3, log 21. -/
def Obligations.JumpTargetsAreExact : Prop :=
  ∀ (nnn : Addr12) (s : State),
    EncodedAs (.jp nnn) (0x1000 + nnn.toNat) ∧ EncodedAs (.jpV0 nnn) (0xB000 + nnn.toNat) ∧
    (∃ t, exec (.jp nnn) s = .next t ∧ t.pc.toNat = nnn.toNat ∧ t.outcome = none ∧ ChangesOnly Part.flow s t) ∧
    (∃ t, exec (.jpV0 nnn) s = .next t ∧ t.pc.toNat = nnn.toNat + (s.getV 0).toNat ∧ t.outcome = none ∧
      ChangesOnly Part.flow s t) ∧
    (∀ t, exec (.jp nnn) s = .next t ∨ exec (.jpV0 nnn) s = .next t →
      t.runState = .running → t.nextAgent = .loop → t.pc.toNat > 0xFFE →
      ∃ u, step t = .next u ∧ TakesFault .outOfBoundsMemoryAccess t.popSchedule u)

/-- CALL nnn (0x2nnn): with room on the stack the next slot's address is pushed and `PC` is the target; with a full
stack StackOverflow, nothing pushed, `PC` at the CALL (R124). That the push writes `S[SP]` and raises `SP` by one is
R29, the spec's decision D24, log 22; `PC` held by the fault is D5, log 16. -/
def Obligations.CallPushesReturnAddress : Prop :=
  ∀ (nnn : Addr12) (s : State), EncodedAs (.call nnn) (0x2000 + nnn.toNat) ∧
    (∀ h : s.sp.val < 16,
      ∃ t, exec (.call nnn) s = .next t ∧ t.stack[s.sp.val] = s.pc + 2 ∧ t.sp.val = s.sp.val + 1 ∧
        t.pc.toNat = nnn.toNat ∧ t.outcome = none ∧ ChangesOnly (.entry ⟨s.sp.val, h⟩ :: .sp :: Part.flow) s t) ∧
    (s.sp.val = 16 → ∃ t, exec (.call nnn) s = .next t ∧ TakesFault .stackOverflow s t)

/-- RET (0x00EE exactly): `PC` takes the popped entry; with an empty stack StackUnderflow, `SP` and `PC` unchanged
(R121). That the pop takes `S[SP-1]`, lowers `SP` by one and leaves the entry as it was is R30, the spec's decision
D24, log 22; `PC` held by the fault is D5, log 16. -/
def Obligations.ReturnPopsAddress : Prop :=
  ∀ s : State, EncodedAs .ret 0x00EE ∧
    (∀ k : Reg, s.sp.val = k.val + 1 →
      ∃ t, exec .ret s = .next t ∧ t.pc = s.stack[k] ∧ t.sp.val = k.val ∧ t.outcome = none ∧
        ChangesOnly (.sp :: Part.flow) s t) ∧
    (s.sp.val = 0 → ∃ t, exec .ret s = .next t ∧ TakesFault .stackUnderflow s t)

/-- The call/return round trip: after a CALL at `s`, however many steps of any agent run with the CALL's entry still
on the stack, a RET with that entry on top resumes at the CALL's next slot with `SP` as before the CALL (R127, derived
in the spec from R29, R30, R121, R124; the stack's layout is the spec's decision D24, log 22). -/
def Obligations.CallReturnRoundTrip : Prop :=
  ∀ (nnn : Addr12) (s t u : State) (n : Nat),
    s.sp.val < 16 → exec (.call nnn) s = .next t → RunsAbove (s.sp.val + 1) n t u → u.sp.val = s.sp.val + 1 →
    ∃ r, exec .ret u = .next r ∧ r.pc = s.pc + 2 ∧ r.sp = s.sp

/-- HALT (0x00FD exactly): HALTED, exit status 0, `PC` keeps the HALT's address (R122, R106; `PC` is the spec's decision
D6, log 16). That each timer may take one more decrement is R261 with the spec's decision D19, log 9. -/
def Obligations.HaltStopsTheRun : Prop :=
  ∀ s : State, EncodedAs .halt 0x00FD ∧
    ∃ t, exec .halt s = .next t ∧ t.runState = .halted ∧ t.exitStatus = some 0 ∧ t.outcome = none ∧
      t.postStopDt = true ∧ t.postStopSt = true ∧
      ChangesOnly [.runState, .outcome, .postStopDt, .postStopSt] s t

/-- CLS (0x00E0 exactly) emits one `disp_clear`, a display present or not, and changes nothing else (R120, the spec's
decision D15; `dispOut` is the model's record of the output port, log 5). -/
def Obligations.ClearEmitsRequest : Prop :=
  ∀ s : State, EncodedAs .cls 0x00E0 ∧
    ∃ t, exec .cls s = .next t ∧ t.dispOut = s.dispOut ++ [.clear] ∧ NextSlot s t ∧
      ChangesOnly (.dispOut :: Part.flow) s t

/-! ### Address register, timers -/

/-- LD I, nnn (0xAnnn): `I` takes `nnn`, nothing else changes (R190). -/
def Obligations.LoadAddressRegister : Prop :=
  ∀ (nnn : Addr12) (s : State), EncodedAs (.ldI nnn) (0xA000 + nnn.toNat) ∧
    ∃ t, exec (.ldI nnn) s = .next t ∧ t.i.toNat = nnn.toNat ∧ NextSlot s t ∧ ChangesOnly (.i :: Part.flow) s t

/-- ADD I, Vx (0xFx1E) is mod 65536 with VF untouched; LD F, Vx (0xFx29) points `I` at the glyph of the low nibble and
reads no memory (R194, R195; the spec's decisions D12 and D13, log 18). -/
def Obligations.AddressRegisterArithmetic : Prop :=
  ∀ (x : Reg) (s : State),
    EncodedAs (.addIVx x) (0xF01E + x.val * 0x100) ∧ EncodedAs (.ldFVx x) (0xF029 + x.val * 0x100) ∧
    (∃ t, exec (.addIVx x) s = .next t ∧ t.i.toNat = (s.i.toNat + (s.getV x).toNat) % 65536 ∧ NextSlot s t ∧
      ChangesOnly (.i :: Part.flow) s t) ∧
    (∃ t, exec (.ldFVx x) s = .next t ∧ t.i.toNat = 5 * ((s.getV x).toNat % 16) ∧ NextSlot s t ∧
      ChangesOnly (.i :: Part.flow) s t)

/-- LD Vx, DT (0xFx07) and LD DT, Vx (0xFx15): one read and one write of `DT` (R191, R192). -/
def Obligations.DelayTimerAccess : Prop :=
  ∀ (x : Reg) (s : State),
    EncodedAs (.ldVxDt x) (0xF007 + x.val * 0x100) ∧ EncodedAs (.ldDtVx x) (0xF015 + x.val * 0x100) ∧
    (∃ t, exec (.ldVxDt x) s = .next t ∧ t.getV x = s.dt ∧ NextSlot s t ∧ ChangesOnly (.v x :: Part.flow) s t) ∧
    (∃ t, exec (.ldDtVx x) s = .next t ∧ t.dt = s.getV x ∧ NextSlot s t ∧ ChangesOnly (.dt :: Part.flow) s t)

/-- LD ST, Vx (0xFx18) writes `ST` and leaves the agent's latch alone (R193, the spec's decision D18, log 10). -/
def Obligations.SoundTimerWrite : Prop :=
  ∀ (x : Reg) (s : State), EncodedAs (.ldStVx x) (0xF018 + x.val * 0x100) ∧
    ∃ t, exec (.ldStVx x) s = .next t ∧ t.st = s.getV x ∧ NextSlot s t ∧ ChangesOnly (.st :: Part.flow) s t

/-! ### Block memory -/

/-- LD B, Vx (0xFx33) where BCD is implemented: hundreds, tens, ones at `I`, `I+1`, `I+2`, and no other byte changes;
past 0xFFF it faults and keeps the digits below (R203; layout and implementation are the spec's decision D17, log 15;
what the fault keeps is its decisions D5 and D14, logs 16 and 18). -/
def Obligations.BcdDigitsStored : Prop :=
  ∀ x : Reg, EncodedAs (.ldBVx x) (0xF033 + x.val * 0x100) ∧ ∀ s : State, s.cfg.bcdImplemented = true →
    (s.i.toNat + 2 ≤ 0xFFF →
      ∃ t, exec (.ldBVx x) s = .next t ∧
        (t.readByte s.blockBase).toNat = (s.getV x).toNat / 100 ∧
        (t.readByte (s.blockBase + 1)).toNat = (s.getV x).toNat / 10 % 10 ∧
        (t.readByte (s.blockBase + 2)).toNat = (s.getV x).toNat % 10 ∧
        NextSlot s t ∧ ChangesOnly (Part.bytes s.blockBase 3 ++ Part.flow) s t) ∧
    (s.i.toNat + 2 > 0xFFF →
      ∃ t, exec (.ldBVx x) s = .next t ∧ FaultRecorded .outOfBoundsMemoryAccess t ∧
        (s.blockBase ≤ 0xFFF → (t.readByte s.blockBase).toNat = (s.getV x).toNat / 100) ∧
        (s.blockBase + 1 ≤ 0xFFF → (t.readByte (s.blockBase + 1)).toNat = (s.getV x).toNat / 10 % 10) ∧
        ChangesOnly (Part.bytes s.blockBase (0x1000 - s.blockBase) ++ Part.fault) s t)

/-- LD [I], Vx (0xFx55) in bounds: byte `I + k` takes `V[k]` for every `k` up to `x`; no other byte, no register and not
`I` changes (R205, the spec's decision D14, log 18). -/
def Obligations.BlockStoreCompletes : Prop :=
  ∀ x : Reg, EncodedAs (.ldMemVx x) (0xF055 + x.val * 0x100) ∧ ∀ s : State, s.i.toNat + x.val ≤ 0xFFF →
    ∃ t, exec (.ldMemVx x) s = .next t ∧
      (∀ k : Reg, k ≤ x → t.readByte (s.blockBase + k.val) = s.getV k) ∧
      NextSlot s t ∧ ChangesOnly (Part.bytes s.blockBase (x.val + 1) ++ Part.flow) s t

/-- LD Vx, [I] (0xFx65) in bounds: `V[k]` takes byte `I + k` for every `k` up to `x`; nothing stores (R207, the spec's
decision D14, log 18). -/
def Obligations.BlockLoadCompletes : Prop :=
  ∀ x : Reg, EncodedAs (.ldVxMem x) (0xF065 + x.val * 0x100) ∧ ∀ s : State, s.i.toNat + x.val ≤ 0xFFF →
    ∃ t, exec (.ldVxMem x) s = .next t ∧
      (∀ k : Reg, k ≤ x → t.getV k = s.readByte (s.blockBase + k.val)) ∧
      NextSlot s t ∧ ChangesOnly (Part.regs (fun k => decide (k ≤ x)) ++ Part.flow) s t

/-- LD [I], Vx and LD Vx, [I] past 0xFFF fault at the first byte out of bounds; the bytes stored and the registers
loaded before it stay, everything else is as before (R205, R207, R65, R12, the spec's decisions D5 and D14, logs 16
and 18). -/
def Obligations.BlockTransferFaultsPastMemory : Prop :=
  ∀ (x : Reg) (s : State), s.i.toNat + x.val > 0xFFF →
    (∃ t, exec (.ldMemVx x) s = .next t ∧ FaultRecorded .outOfBoundsMemoryAccess t ∧
      (∀ k : Reg, k ≤ x → s.blockBase + k.val ≤ 0xFFF → t.readByte (s.blockBase + k.val) = s.getV k) ∧
      ChangesOnly (Part.bytes s.blockBase (0x1000 - s.blockBase) ++ Part.fault) s t) ∧
    (∃ t, exec (.ldVxMem x) s = .next t ∧ FaultRecorded .outOfBoundsMemoryAccess t ∧
      (∀ k : Reg, k ≤ x → s.blockBase + k.val ≤ 0xFFF → t.getV k = s.readByte (s.blockBase + k.val)) ∧
      ChangesOnly (Part.regs (fun k => decide (k ≤ x ∧ s.blockBase + k.val ≤ 0xFFF)) ++ Part.fault) s t)

/-- A block load through the same `I` gives back what a block store stored, whatever the registers hold in between
(R205, R207, R70). With `u.i = t.i` this rests on the store leaving `I` unchanged, the spec's decision D14, log 18. -/
def Obligations.BlockStoreThenLoadRestores : Prop :=
  ∀ (x : Reg) (s t u : State), s.i.toNat + x.val ≤ 0xFFF → exec (.ldMemVx x) s = .next t →
    u.mem = t.mem → u.cfg = t.cfg → u.i = t.i →
    ∃ r, exec (.ldVxMem x) u = .next r ∧ ∀ k : Reg, k ≤ x → r.getV k = s.getV k

/-- A byte stored by a block store is what the next fetch of that address reads: the word at `PC` after the store is
made of the stored registers (R75, R63, derived in the spec; R205, the spec's decision D14, log 18). -/
def Obligations.StoredCodeIsFetched : Prop :=
  ∀ (x k l : Reg) (s t : State), s.i.toNat + x.val ≤ 0xFFF → exec (.ldMemVx x) s = .next t →
    k ≤ x → l ≤ x → l.val = k.val + 1 → s.pc.toNat + 2 = s.i.toNat + k.val →
    t.fetch = .ok (wordOfBytes (s.getV k) (s.getV l))

/-! ### Display and keypad -/

/-- DRW (0xDxyn) with a display: the rows at `I` are read, one request carries them and the OLD coordinates, VF takes
the display's reply, State's next one where it holds one, for every reply; a row above 0xFFF faults before any request
(R220; the spec's decisions D15 and D31, log 13; the faulting DRW's `PC` is D5, log 16). That the request is held in
`dispOut` is the model's choice, log 5, and so is where the reply stands and how it is used up, log 4. -/
def Obligations.DrawSendsRows : Prop :=
  ∀ (x y : Reg) (n : Nibble), EncodedAs (.drw x y n) (0xD000 + x.val * 0x100 + y.val * 0x10 + n.toNat) ∧
    ∀ s : State, s.cfg.displayPresent = true →
    (∀ r rest, s.draws.collision = r :: rest → s.collisionDraw = r) ∧
    (s.i.toNat + n.toNat ≤ 0x1000 ∨ n = 0 →
      ∃ t, exec (.drw x y n) s = .next t ∧
        t.dispOut = s.dispOut ++
          [.draw (s.getV x) (s.getV y) ((List.range n.toNat).map fun k => s.readByte (s.blockBase + k))] ∧
        t.getV 15 = (if s.collisionDraw then 1 else 0) ∧
        t.draws = { s.draws with collision := s.draws.collision.tail, count := s.draws.count + 1 } ∧
        NextSlot s t ∧ ChangesOnly (.v 15 :: .dispOut :: .draws :: Part.flow) s t) ∧
    (s.i.toNat + n.toNat > 0x1000 → n ≠ 0 →
      ∃ t, exec (.drw x y n) s = .next t ∧ TakesFault .outOfBoundsMemoryAccess s t)

/-- SKP (0xEx9E) and SKNP (0xExA1) with a keypad: the key is the low nibble of `V[x]`, the state a fresh draw,
State's next one where it holds one, for every draw (R222, R223; the spec's decisions D16 and D30, log 13). Where the
draw stands and how it is used up is the model's choice, log 4. -/
def Obligations.SkipOnKey : Prop :=
  ∀ x : Reg, EncodedAs (.skp x) (0xE09E + x.val * 0x100) ∧ EncodedAs (.sknp x) (0xE0A1 + x.val * 0x100) ∧
    ∀ s : State, s.cfg.keypadPresent = true →
    (∀ k rest, s.draws.keys = k :: rest → s.keysDraw = k) ∧
    (∃ t, exec (.skp x) s = .next t ∧
      (s.keysDraw.getLsbD ((s.getV x).toNat % 16) = true → SkipSlot s t) ∧
      (s.keysDraw.getLsbD ((s.getV x).toNat % 16) = false → NextSlot s t) ∧
      t.draws = { s.draws with keys := s.draws.keys.tail, count := s.draws.count + 1 } ∧
      ChangesOnly (.draws :: Part.flow) s t) ∧
    (∃ t, exec (.sknp x) s = .next t ∧
      (s.keysDraw.getLsbD ((s.getV x).toNat % 16) = false → SkipSlot s t) ∧
      (s.keysDraw.getLsbD ((s.getV x).toNat % 16) = true → NextSlot s t) ∧
      t.draws = { s.draws with keys := s.draws.keys.tail, count := s.draws.count + 1 } ∧
      ChangesOnly (.draws :: Part.flow) s t)

/-- LD Vx, K (0xFx0A) with a keypad, its state a fresh draw, State's next one where it holds one: with a key pressed
`V[x]` takes the lowest pressed index; with none `PC` and every register stay, so the instruction runs again (R226;
the spec's decisions D16 and D30, log 13). Where the draw stands and how it is used up is the model's choice, log 4. -/
def Obligations.WaitForKey : Prop :=
  ∀ x : Reg, EncodedAs (.ldVxK x) (0xF00A + x.val * 0x100) ∧ ∀ s : State, s.cfg.keypadPresent = true →
    (∀ k rest, s.draws.keys = k :: rest → s.keysDraw = k) ∧
    (∀ k : Reg, s.keysDraw.getLsbD k.val = true → (∀ j : Reg, j < k → s.keysDraw.getLsbD j.val = false) →
      ∃ t, exec (.ldVxK x) s = .next t ∧ (t.getV x).toNat = k.val ∧
        t.draws = { s.draws with keys := s.draws.keys.tail, count := s.draws.count + 1 } ∧
        NextSlot s t ∧ ChangesOnly (.v x :: .draws :: Part.flow) s t) ∧
    (s.keysDraw = 0 →
      ∃ t, exec (.ldVxK x) s = .next t ∧ t.outcome = none ∧
        t.draws = { s.draws with keys := s.draws.keys.tail, count := s.draws.count + 1 } ∧
        ChangesOnly [.outcome, .draws] s t)

/-- An instruction of an absent unit faults UnimplementedOpcode and writes nothing: DRW without a display, SKP, SKNP
and LD Vx, K without a keypad, LD B, Vx without BCD (R92; the spec's decisions D15, D16, D17, with the parameters in
State, log 1; the keypad words are general knowledge, log 13; `PC` held is D5, log 16). -/
def Obligations.AbsentUnitsFault : Prop :=
  ∀ (x y : Reg) (n : Nibble) (s : State),
    (s.cfg.displayPresent = false → ∃ t, exec (.drw x y n) s = .next t ∧ TakesFault .unimplementedOpcode s t) ∧
    (s.cfg.keypadPresent = false →
      (∃ t, exec (.skp x) s = .next t ∧ TakesFault .unimplementedOpcode s t) ∧
      (∃ t, exec (.sknp x) s = .next t ∧ TakesFault .unimplementedOpcode s t) ∧
      (∃ t, exec (.ldVxK x) s = .next t ∧ TakesFault .unimplementedOpcode s t)) ∧
    (s.cfg.bcdImplemented = false → ∃ t, exec (.ldBVx x) s = .next t ∧ TakesFault .unimplementedOpcode s t)

/-! ### Whole-machine rules -/

/-- Every instruction answers a next state and consumes its outcome or takes a fault (R105, R106, R36; that a fault is
a next state is log 6, that the outcome is consumed inside `exec` is log 7). It leaves the configuration and the
schedule alone, which R43 calls no state; that they stand in State is the model's choice, logs 1 and 3. -/
def Obligations.EveryInstructionEnds : Prop :=
  ∀ (i : Instr) (s : State),
    ∃ t, exec i s = .next t ∧ t.cfg = s.cfg ∧ t.schedule = s.schedule ∧
      (t.outcome = none ∨ (t.outcome = s.outcome ∧ t.pc = s.pc ∧ ∃ k, FaultRecorded k t))

/-- VF changes only by the five flag-writing operations, by DRW with a display, and where it is the instruction's
named destination (R21, R22; the destinations of family 0x8 are the spec's decision D10, log 14, and what DRW and LD
Vx, K write is its general knowledge, D30 and D31, log 13). -/
def Obligations.WritersOfVF : Prop :=
  ∀ (i : Instr) (s t : State), exec i s = .next t → t.getV 15 ≠ s.getV 15 →
    (∃ x y, i = .addVxVy x y ∨ i = .sub x y ∨ i = .shr x y ∨ i = .subn x y ∨ i = .shl x y) ∨
    (∃ x y n, i = .drw x y n ∧ s.cfg.displayPresent = true) ∨
    (∃ kk y, i = .ldVxKk 15 kk ∨ i = .addVxKk 15 kk ∨ i = .ldVxVy 15 y ∨ i = .orVxVy 15 y ∨ i = .andVxVy 15 y ∨
      i = .xorVxVy 15 y ∨ i = .rnd 15 kk ∨ i = .ldVxDt 15 ∨ i = .ldVxK 15 ∨ i = .ldVxMem 15)

/-- Who writes what besides the general registers: `I` by 0xAnnn, 0xFx1E, 0xFx29; the stack by CALL and RET; `DT` by
0xFx15; `ST` by 0xFx18; the sound agent's latch by none; memory by 0xFx33 and 0xFx55; the display requests by CLS and
DRW (R24, R28, R31, R32, R61, R41, with the spec's decisions D12 and D14, log 18, D17, log 15, D24, log 22). The latch
clause is the model's reading of R193 and R259 with the spec's decision D18, log 10; that the requests are held in
State is the model's choice, log 5. -/
def Obligations.WritersOfOtherState : Prop :=
  ∀ (i : Instr) (s t : State), exec i s = .next t →
    (t.i ≠ s.i → ∃ nnn x, i = .ldI nnn ∨ i = .addIVx x ∨ i = .ldFVx x) ∧
    (t.sp ≠ s.sp ∨ t.stack ≠ s.stack → ∃ nnn, i = .call nnn ∨ i = .ret) ∧
    (t.dt ≠ s.dt → ∃ x, i = .ldDtVx x) ∧
    (t.st ≠ s.st → ∃ x, i = .ldStVx x) ∧
    t.stLatch = s.stLatch ∧
    (t.mem ≠ s.mem → ∃ x, i = .ldBVx x ∨ i = .ldMemVx x) ∧
    (t.dispOut ≠ s.dispOut → ∃ x y n, i = .cls ∨ i = .drw x y n)

/-- Which instruction raises which fault, and no other; OutOfBoundsMemoryAccess only where the instruction's own last
byte is above 0xFFF (R242 but for the fetch and decode faults, which are `FetchPastMemoryFaults` and
`UnmatchedWordFaults`; the absent units are the spec's decisions D15 to D17, log 1; the bounds of DRW's and LD B's
bytes are its D31 and D17, logs 13 and 15). -/
def Obligations.FaultsOfInstructions : Prop :=
  ∀ (i : Instr) (s t : State) (k : FaultKind),
    s.runState = .running → exec i s = .next t → t.runState = .faulted → t.faultKind = some k →
    (k = .stackOverflow ∧ s.sp.val = 16 ∧ ∃ nnn, i = .call nnn) ∨
    (k = .stackUnderflow ∧ s.sp.val = 0 ∧ i = .ret) ∨
    (k = .unimplementedOpcode ∧
      ((s.cfg.displayPresent = false ∧ ∃ x y n, i = .drw x y n) ∨
        (s.cfg.keypadPresent = false ∧ ∃ x, i = .skp x ∨ i = .sknp x ∨ i = .ldVxK x) ∨
        (s.cfg.bcdImplemented = false ∧ ∃ x, i = .ldBVx x))) ∨
    (k = .outOfBoundsMemoryAccess ∧
      ((s.cfg.displayPresent = true ∧ ∃ x y n, i = .drw x y n ∧ n.toNat ≠ 0 ∧ s.i.toNat + n.toNat - 1 > 0xFFF) ∨
        (s.cfg.bcdImplemented = true ∧ s.i.toNat + 2 > 0xFFF ∧ ∃ x, i = .ldBVx x) ∨
        ∃ x, (i = .ldMemVx x ∨ i = .ldVxMem x) ∧ s.i.toNat + x.val > 0xFFF))

/-- Faults are precise: an instruction that ends FAULTED has written no `I`, `PC`, `SP`, stack entry or timer, sent no
request and used no draw; only a block transfer has written bytes or registers (R244, the spec's decisions D5 and D14,
logs 16 and 18; the requests and the draws stand in State by the model's choice, logs 5 and 4). -/
def Obligations.FaultsArePrecise : Prop :=
  ∀ (i : Instr) (s t : State), s.runState = .running → exec i s = .next t → t.runState = .faulted →
    t.i = s.i ∧ t.pc = s.pc ∧ t.sp = s.sp ∧ t.stack = s.stack ∧ t.dt = s.dt ∧ t.st = s.st ∧
    t.dispOut = s.dispOut ∧ t.draws = s.draws ∧
    ((∀ x, i ≠ .ldVxMem x) → t.v = s.v) ∧
    ((∀ x, i ≠ .ldMemVx x ∧ i ≠ .ldBVx x) → t.mem = s.mem)

/-- The `DEBUG` parameter has no effect: a step with another value of it is the same step (R111, R265, the spec's
decision D25, log 22; that it stands in State is log 1). -/
def Obligations.DebugHasNoEffect : Prop :=
  ∀ (b : Bool) (s : State), step (s.withDebug b) = mapNext (State.withDebug b) (step s)

/-- The status outputs: `run_state` is 0, 1, 2 in RUNNING, HALTED, FAULTED; `fault_kind` is 0 with no fault and else the
code 1 to 6 of its kind; `exit_status` is 0 when HALTED and the fault's code when FAULTED (R34, R35, R41, R241, the
spec's decisions D4 and D33, log 19). While RUNNING `exit_status` has no value (log 6). -/
def Obligations.ExitStatusReportsTheFault : Prop :=
  (RunState.running.code = 0 ∧ RunState.halted.code = 1 ∧ RunState.faulted.code = 2) ∧
  (FaultKind.malformedProgramImage.code = 1 ∧ FaultKind.stackOverflow.code = 2 ∧ FaultKind.stackUnderflow.code = 3 ∧
    FaultKind.unrecognizedOpcode.code = 4 ∧ FaultKind.unimplementedOpcode.code = 5 ∧
    FaultKind.outOfBoundsMemoryAccess.code = 6) ∧
  (∀ s : State, (s.faultKind = none → s.faultCode = 0) ∧ ∀ k, s.faultKind = some k → s.faultCode = k.code) ∧
  (∀ s : State, s.runState = .running → s.exitStatus = none) ∧
  (∀ s : State, s.runState = .halted → s.exitStatus = some 0) ∧
  (∀ (s : State) (k : FaultKind), s.runState = .faulted → s.faultKind = some k → s.exitStatus = some k.code)

/-! ### The invariant -/

/-- Every step of every agent keeps the invariant: canonical memory, `PC` and return addresses bounded, `fault_kind`
held exactly in FAULTED, post-stop bits false while RUNNING, no outcome left over, the latch as the sound-timer mode
says (R26, R28, R35, R36, R38, R60, R261; the latch and the post-stop bits are the spec's decisions D18 and D19, logs
10 and 9, the outcome consumed within a step is log 7, the canonical list over the reset contents is the model's, log
2). -/
def Obligations.StepKeepsInvariant : Prop :=
  ∀ s t : State, s.Inv → step s = .next t → t.Inv

/-- The invariant holds in the state the model calls reset, the one with the empty image (R50; log 8). -/
def Obligations.ResetMeetsInvariant : Prop := State.reset.Inv

/-- Two memories in canonical form over the same reset contents that read the same at every address are the same list
(the model's representation of R60, log 2). -/
def Obligations.CanonicalMemoryIsUnique : Prop :=
  ∀ (d : Nat → Byte) (m n : Memory), Memory.wf d m = true → Memory.wf d n = true →
    (∀ a, Memory.read d m a = Memory.read d n a) → m = n

/-! ### Timers -/

/-- The delay-timer step on `tick_dt`: one decrement while the counter is nonzero, gated by RUNNING or the post-stop
permission; never below 0; nothing else of the machine changes but the agent's own permission (R256; the permission is
R38 and R261, the spec's decision D19, log 9, and what becomes of it is `PostStopPermission`). -/
def Obligations.DelayTimerTick : Prop :=
  ∀ s : State, s.nextAgent = .tickDt →
    ∃ t, step s = .next t ∧
      ((s.runState = .running ∨ s.postStopDt = true) → s.dt ≠ 0 → t.dt.toNat + 1 = s.dt.toNat) ∧
      (¬ (s.runState = .running ∨ s.postStopDt = true) ∨ s.dt = 0 → t.dt = s.dt) ∧
      ChangesOnly [.dt, .postStopDt, .schedule] s t

/-- The post-stop permissions: both are given by the loop's step that leaves RUNNING, and the delay timer's first
decrement takes its own away (R261, the spec's decision D19, log 9; the sound timer's is in `SoundTimerSteps`). -/
def Obligations.PostStopPermission : Prop :=
  ∀ s t : State, step s = .next t →
    (s.nextAgent = .loop → t.runState ≠ .running → t.postStopDt = true ∧ t.postStopSt = true) ∧
    (s.nextAgent = .loop → t.runState = .running → t.postStopDt = s.postStopDt ∧ t.postStopSt = s.postStopSt) ∧
    (s.nextAgent = .tickDt → t.dt ≠ s.dt → t.postStopDt = false) ∧
    (s.nextAgent = .tickDt → t.dt = s.dt → t.postStopDt = s.postStopDt)

/-- The sound-timer agent: guarded, one atomic decrement on `tick_st`; unguarded, `tick_st` reads a nonzero `ST` into
an empty latch, and the write phase writes the latch minus one and empties it (R257, R258, R259; the spec's decision
D18, log 10; the post-stop permission is R261 with D19, log 9). -/
def Obligations.SoundTimerSteps : Prop :=
  ∀ s : State,
    (s.nextAgent = .tickSt → s.cfg.soundTimerGuarded = true →
      ∃ t, step s = .next t ∧
        ((s.runState = .running ∨ s.postStopSt = true) → s.st ≠ 0 →
          t.st.toNat + 1 = s.st.toNat ∧ t.postStopSt = false) ∧
        (¬ (s.runState = .running ∨ s.postStopSt = true) ∨ s.st = 0 → t.st = s.st ∧ t.postStopSt = s.postStopSt) ∧
        ChangesOnly [.st, .postStopSt, .schedule] s t) ∧
    (s.nextAgent = .tickSt → s.cfg.soundTimerGuarded = false →
      ∃ t, step s = .next t ∧
        ((s.runState = .running ∨ s.postStopSt = true) → s.st ≠ 0 → s.stLatch = none → t.stLatch = some s.st) ∧
        (¬ (s.runState = .running ∨ s.postStopSt = true) ∨ s.st = 0 ∨ s.stLatch ≠ none → t.stLatch = s.stLatch) ∧
        ChangesOnly [.stLatch, .schedule] s t) ∧
    (s.nextAgent = .stWrite → s.cfg.soundTimerGuarded = false →
      ∃ t, step s = .next t ∧
        (∀ l, s.stLatch = some l → t.st = l - 1 ∧ t.stLatch = none ∧ t.postStopSt = false) ∧
        (s.stLatch = none → ChangesOnly [.schedule] s t) ∧
        ChangesOnly [.st, .stLatch, .postStopSt, .schedule] s t)

/-- The timer agents touch nothing but the timers' own fields (R33; the latch and the permissions are R38, the spec's
decisions D18 and D19, logs 10 and 9): every step of theirs leaves every other part alone. -/
def Obligations.TimerAgentsTouchOnlyTimers : Prop :=
  ∀ s t : State, step s = .next t →
    (s.nextAgent = .tickDt → ChangesOnly [.dt, .postStopDt, .schedule] s t) ∧
    (s.nextAgent = .tickSt ∨ s.nextAgent = .stWrite → ChangesOnly [.st, .stLatch, .postStopSt, .schedule] s t)

/-- The lost update of the unguarded sound timer: a 0xFx18 between the read phase and the write phase is overwritten,
whatever it wrote (R72, R193, R259; the spec's decision D18, log 10). -/
def Obligations.UnguardedSoundWriteIsLost : Prop :=
  ∀ (x : Reg) (s : State), s.cfg.soundTimerGuarded = false → s.runState = .running → s.stLatch = none → s.st ≠ 0 →
    ∃ t, exec (.ldStVx x) s.tickSt = .next t ∧ t.st = s.getV x ∧ t.stWrite.st = s.st - 1 ∧ t.stWrite.stLatch = none

/-- After the stop each timer takes at most one more decrement, however many steps follow, until a reset: the final
value is the one at the stop or one less, for the unguarded sound timer the latched value less one (R261, the spec's
decisions D19, log 9, and D18, log 10). -/
def Obligations.AtMostOneDecrementAfterStop : Prop :=
  ∀ (n : Nat) (s t : State), s.Inv → s.runState ≠ .running → (∀ image, .rst image ∉ s.schedule) →
    Sys2Proof.core.run n s = .next t →
    (t.dt = s.dt ∨ (s.postStopDt = true ∧ s.dt ≠ 0 ∧ t.dt = s.dt - 1)) ∧
    (t.st = s.st ∨ (s.postStopSt = true ∧ s.stLatch.getD s.st ≠ 0 ∧ t.st = s.stLatch.getD s.st - 1))

/-! ### Reset and load -/

/-- The state the model calls reset, the one with the empty image (log 8): the values of R50 (`dispOut`, `draws`,
`schedule` are the model's own, logs 3 to 5; the glyph bytes are the parameter's, log 2). -/
def Obligations.ResetValues : Prop :=
  State.reset.pc = 0x200 ∧ State.reset.i = 0 ∧ State.reset.sp = 0 ∧ (∀ x, State.reset.getV x = 0) ∧
  (∀ k : Reg, State.reset.stack[k] = 0) ∧ State.reset.dt = 0 ∧ State.reset.st = 0 ∧
  State.reset.runState = .running ∧ State.reset.faultKind = none ∧ State.reset.outcome = none ∧
  State.reset.stLatch = none ∧ State.reset.postStopDt = false ∧ State.reset.postStopSt = false ∧
  (∀ a, 80 ≤ a → State.reset.readByte a = 0) ∧
  (∀ a, ∀ h : a < 80, State.reset.readByte a = State.reset.cfg.glyphRom[a])

/-- `rst` with an accepted image: image byte `k` is at 0x200 + `k`, so each word has its high byte at the lower
address (R283). Which images are accepted, and that `rst` runs from any state, are the spec's decisions D22 and D34,
log 20. -/
def Obligations.ResetLoadsImage : Prop :=
  ∀ (s : State) (image : List Byte), s.nextAgent = .rst image → imageWellFormed image = true →
    ∃ t, step s = .next t ∧ (∀ k, ∀ h : k < image.length, t.readByte (0x200 + k) = image[k]) ∧
      (∀ j, ∀ h : 2 * j + 1 < image.length,
        wordOfBytes (t.readByte (0x200 + 2 * j)) (t.readByte (0x201 + 2 * j)) =
          wordOfBytes image[2 * j] image[2 * j + 1])

/-- `rst` with an accepted image, in any state: the glyphs at 0x000-0x04F, every byte outside them and the image 0;
every register, timer and stack entry 0, `SP` 0, `PC` 0x200, RUNNING, no fault, empty latch; the parameters stay (R50,
R280, R281, R284, R285; the glyph bytes and the re-reset are the spec's decisions D21 and D34, logs 2 and 20). -/
def Obligations.ResetClearsState : Prop :=
  ∀ (s : State) (image : List Byte), s.nextAgent = .rst image → imageWellFormed image = true →
    ∃ t, step s = .next t ∧
      (∀ a, ∀ h : a < 80, t.readByte a = s.cfg.glyphRom[a]) ∧
      (∀ a, 80 ≤ a → a < 0x200 ∨ 0x200 + image.length ≤ a → t.readByte a = 0) ∧
      (∀ x, t.getV x = 0) ∧ t.i = 0 ∧ t.pc = 0x200 ∧ t.sp = 0 ∧ (∀ k : Reg, t.stack[k] = 0) ∧ t.dt = 0 ∧ t.st = 0 ∧
      t.runState = .running ∧ t.faultKind = none ∧ t.outcome = none ∧ t.stLatch = none ∧
      t.postStopDt = false ∧ t.postStopSt = false ∧ t.cfg = s.cfg

/-- `rst` with a malformed image, odd or longer than 0xE00 bytes: no byte of it is written, the run starts FAULTED
(R282; the limit is 90_conflicts.md C2 and the spec's decision D22, log 20; the post-stop bits stay false, log 9; the
glyph bytes are the parameter's, log 2). The exit status is then 1, the kind's code (R41 and R241 with the spec's
decision D4, log 19). -/
def Obligations.ResetRefusesMalformedImage : Prop :=
  ∀ (s : State) (image : List Byte), s.nextAgent = .rst image → image.length % 2 = 1 ∨ image.length > 0xE00 →
    ∃ t, step s = .next t ∧ t.runState = .faulted ∧ t.faultKind = some .malformedProgramImage ∧
      t.exitStatus = some 1 ∧ t.pc = 0x200 ∧ (∀ x, t.getV x = 0) ∧ t.sp = 0 ∧
      t.postStopDt = false ∧ t.postStopSt = false ∧
      (∀ a, 80 ≤ a → t.readByte a = 0) ∧ (∀ a, ∀ h : a < 80, t.readByte a = s.cfg.glyphRom[a])
end

