-- ==== Sys2Proof/Laws/State.lean ====
section
/-! SUPPORT. One lemma per field per update of State, true by rfl, and the same for the two reads `getV` and `readByte`
where the update leaves them alone. -/

namespace Sys2Proof.Machine

/-! `State.setV` -/

@[simp] theorem State.setV_v (s : State) (x : Reg) (b : Byte) : (s.setV x b).v = s.v.set x.val b x.isLt := rfl
@[simp] theorem State.setV_i (s : State) (x : Reg) (b : Byte) : (s.setV x b).i = s.i := rfl
@[simp] theorem State.setV_pc (s : State) (x : Reg) (b : Byte) : (s.setV x b).pc = s.pc := rfl
@[simp] theorem State.setV_sp (s : State) (x : Reg) (b : Byte) : (s.setV x b).sp = s.sp := rfl
@[simp] theorem State.setV_stack (s : State) (x : Reg) (b : Byte) : (s.setV x b).stack = s.stack := rfl
@[simp] theorem State.setV_dt (s : State) (x : Reg) (b : Byte) : (s.setV x b).dt = s.dt := rfl
@[simp] theorem State.setV_st (s : State) (x : Reg) (b : Byte) : (s.setV x b).st = s.st := rfl
@[simp] theorem State.setV_runState (s : State) (x : Reg) (b : Byte) : (s.setV x b).runState = s.runState := rfl
@[simp] theorem State.setV_faultKind (s : State) (x : Reg) (b : Byte) : (s.setV x b).faultKind = s.faultKind := rfl
@[simp] theorem State.setV_outcome (s : State) (x : Reg) (b : Byte) : (s.setV x b).outcome = s.outcome := rfl
@[simp] theorem State.setV_stLatch (s : State) (x : Reg) (b : Byte) : (s.setV x b).stLatch = s.stLatch := rfl
@[simp] theorem State.setV_postStopDt (s : State) (x : Reg) (b : Byte) : (s.setV x b).postStopDt = s.postStopDt := rfl
@[simp] theorem State.setV_postStopSt (s : State) (x : Reg) (b : Byte) : (s.setV x b).postStopSt = s.postStopSt := rfl
@[simp] theorem State.setV_mem (s : State) (x : Reg) (b : Byte) : (s.setV x b).mem = s.mem := rfl
@[simp] theorem State.setV_cfg (s : State) (x : Reg) (b : Byte) : (s.setV x b).cfg = s.cfg := rfl
@[simp] theorem State.setV_dispOut (s : State) (x : Reg) (b : Byte) : (s.setV x b).dispOut = s.dispOut := rfl
@[simp] theorem State.setV_draws (s : State) (x : Reg) (b : Byte) : (s.setV x b).draws = s.draws := rfl
@[simp] theorem State.setV_schedule (s : State) (x : Reg) (b : Byte) : (s.setV x b).schedule = s.schedule := rfl
@[simp] theorem State.setV_readByte (s : State) (x : Reg) (b : Byte) (c : Nat) : (s.setV x b).readByte c = s.readByte c := rfl

/-! `State.setI` -/

@[simp] theorem State.setI_v (s : State) (w : Word) : (s.setI w).v = s.v := rfl
@[simp] theorem State.setI_i (s : State) (w : Word) : (s.setI w).i = w := rfl
@[simp] theorem State.setI_pc (s : State) (w : Word) : (s.setI w).pc = s.pc := rfl
@[simp] theorem State.setI_sp (s : State) (w : Word) : (s.setI w).sp = s.sp := rfl
@[simp] theorem State.setI_stack (s : State) (w : Word) : (s.setI w).stack = s.stack := rfl
@[simp] theorem State.setI_dt (s : State) (w : Word) : (s.setI w).dt = s.dt := rfl
@[simp] theorem State.setI_st (s : State) (w : Word) : (s.setI w).st = s.st := rfl
@[simp] theorem State.setI_runState (s : State) (w : Word) : (s.setI w).runState = s.runState := rfl
@[simp] theorem State.setI_faultKind (s : State) (w : Word) : (s.setI w).faultKind = s.faultKind := rfl
@[simp] theorem State.setI_outcome (s : State) (w : Word) : (s.setI w).outcome = s.outcome := rfl
@[simp] theorem State.setI_stLatch (s : State) (w : Word) : (s.setI w).stLatch = s.stLatch := rfl
@[simp] theorem State.setI_postStopDt (s : State) (w : Word) : (s.setI w).postStopDt = s.postStopDt := rfl
@[simp] theorem State.setI_postStopSt (s : State) (w : Word) : (s.setI w).postStopSt = s.postStopSt := rfl
@[simp] theorem State.setI_mem (s : State) (w : Word) : (s.setI w).mem = s.mem := rfl
@[simp] theorem State.setI_cfg (s : State) (w : Word) : (s.setI w).cfg = s.cfg := rfl
@[simp] theorem State.setI_dispOut (s : State) (w : Word) : (s.setI w).dispOut = s.dispOut := rfl
@[simp] theorem State.setI_draws (s : State) (w : Word) : (s.setI w).draws = s.draws := rfl
@[simp] theorem State.setI_schedule (s : State) (w : Word) : (s.setI w).schedule = s.schedule := rfl
@[simp] theorem State.setI_getV (s : State) (w : Word) (r : Reg) : (s.setI w).getV r = s.getV r := rfl
@[simp] theorem State.setI_readByte (s : State) (w : Word) (c : Nat) : (s.setI w).readByte c = s.readByte c := rfl

/-! `State.setPc` -/

@[simp] theorem State.setPc_v (s : State) (w : Word) : (s.setPc w).v = s.v := rfl
@[simp] theorem State.setPc_i (s : State) (w : Word) : (s.setPc w).i = s.i := rfl
@[simp] theorem State.setPc_pc (s : State) (w : Word) : (s.setPc w).pc = w := rfl
@[simp] theorem State.setPc_sp (s : State) (w : Word) : (s.setPc w).sp = s.sp := rfl
@[simp] theorem State.setPc_stack (s : State) (w : Word) : (s.setPc w).stack = s.stack := rfl
@[simp] theorem State.setPc_dt (s : State) (w : Word) : (s.setPc w).dt = s.dt := rfl
@[simp] theorem State.setPc_st (s : State) (w : Word) : (s.setPc w).st = s.st := rfl
@[simp] theorem State.setPc_runState (s : State) (w : Word) : (s.setPc w).runState = s.runState := rfl
@[simp] theorem State.setPc_faultKind (s : State) (w : Word) : (s.setPc w).faultKind = s.faultKind := rfl
@[simp] theorem State.setPc_outcome (s : State) (w : Word) : (s.setPc w).outcome = s.outcome := rfl
@[simp] theorem State.setPc_stLatch (s : State) (w : Word) : (s.setPc w).stLatch = s.stLatch := rfl
@[simp] theorem State.setPc_postStopDt (s : State) (w : Word) : (s.setPc w).postStopDt = s.postStopDt := rfl
@[simp] theorem State.setPc_postStopSt (s : State) (w : Word) : (s.setPc w).postStopSt = s.postStopSt := rfl
@[simp] theorem State.setPc_mem (s : State) (w : Word) : (s.setPc w).mem = s.mem := rfl
@[simp] theorem State.setPc_cfg (s : State) (w : Word) : (s.setPc w).cfg = s.cfg := rfl
@[simp] theorem State.setPc_dispOut (s : State) (w : Word) : (s.setPc w).dispOut = s.dispOut := rfl
@[simp] theorem State.setPc_draws (s : State) (w : Word) : (s.setPc w).draws = s.draws := rfl
@[simp] theorem State.setPc_schedule (s : State) (w : Word) : (s.setPc w).schedule = s.schedule := rfl
@[simp] theorem State.setPc_getV (s : State) (w : Word) (r : Reg) : (s.setPc w).getV r = s.getV r := rfl
@[simp] theorem State.setPc_readByte (s : State) (w : Word) (c : Nat) : (s.setPc w).readByte c = s.readByte c := rfl

/-! `State.setDt` -/

@[simp] theorem State.setDt_v (s : State) (b : Byte) : (s.setDt b).v = s.v := rfl
@[simp] theorem State.setDt_i (s : State) (b : Byte) : (s.setDt b).i = s.i := rfl
@[simp] theorem State.setDt_pc (s : State) (b : Byte) : (s.setDt b).pc = s.pc := rfl
@[simp] theorem State.setDt_sp (s : State) (b : Byte) : (s.setDt b).sp = s.sp := rfl
@[simp] theorem State.setDt_stack (s : State) (b : Byte) : (s.setDt b).stack = s.stack := rfl
@[simp] theorem State.setDt_dt (s : State) (b : Byte) : (s.setDt b).dt = b := rfl
@[simp] theorem State.setDt_st (s : State) (b : Byte) : (s.setDt b).st = s.st := rfl
@[simp] theorem State.setDt_runState (s : State) (b : Byte) : (s.setDt b).runState = s.runState := rfl
@[simp] theorem State.setDt_faultKind (s : State) (b : Byte) : (s.setDt b).faultKind = s.faultKind := rfl
@[simp] theorem State.setDt_outcome (s : State) (b : Byte) : (s.setDt b).outcome = s.outcome := rfl
@[simp] theorem State.setDt_stLatch (s : State) (b : Byte) : (s.setDt b).stLatch = s.stLatch := rfl
@[simp] theorem State.setDt_postStopDt (s : State) (b : Byte) : (s.setDt b).postStopDt = s.postStopDt := rfl
@[simp] theorem State.setDt_postStopSt (s : State) (b : Byte) : (s.setDt b).postStopSt = s.postStopSt := rfl
@[simp] theorem State.setDt_mem (s : State) (b : Byte) : (s.setDt b).mem = s.mem := rfl
@[simp] theorem State.setDt_cfg (s : State) (b : Byte) : (s.setDt b).cfg = s.cfg := rfl
@[simp] theorem State.setDt_dispOut (s : State) (b : Byte) : (s.setDt b).dispOut = s.dispOut := rfl
@[simp] theorem State.setDt_draws (s : State) (b : Byte) : (s.setDt b).draws = s.draws := rfl
@[simp] theorem State.setDt_schedule (s : State) (b : Byte) : (s.setDt b).schedule = s.schedule := rfl
@[simp] theorem State.setDt_getV (s : State) (b : Byte) (r : Reg) : (s.setDt b).getV r = s.getV r := rfl
@[simp] theorem State.setDt_readByte (s : State) (b : Byte) (c : Nat) : (s.setDt b).readByte c = s.readByte c := rfl

/-! `State.setSt` -/

@[simp] theorem State.setSt_v (s : State) (b : Byte) : (s.setSt b).v = s.v := rfl
@[simp] theorem State.setSt_i (s : State) (b : Byte) : (s.setSt b).i = s.i := rfl
@[simp] theorem State.setSt_pc (s : State) (b : Byte) : (s.setSt b).pc = s.pc := rfl
@[simp] theorem State.setSt_sp (s : State) (b : Byte) : (s.setSt b).sp = s.sp := rfl
@[simp] theorem State.setSt_stack (s : State) (b : Byte) : (s.setSt b).stack = s.stack := rfl
@[simp] theorem State.setSt_dt (s : State) (b : Byte) : (s.setSt b).dt = s.dt := rfl
@[simp] theorem State.setSt_st (s : State) (b : Byte) : (s.setSt b).st = b := rfl
@[simp] theorem State.setSt_runState (s : State) (b : Byte) : (s.setSt b).runState = s.runState := rfl
@[simp] theorem State.setSt_faultKind (s : State) (b : Byte) : (s.setSt b).faultKind = s.faultKind := rfl
@[simp] theorem State.setSt_outcome (s : State) (b : Byte) : (s.setSt b).outcome = s.outcome := rfl
@[simp] theorem State.setSt_stLatch (s : State) (b : Byte) : (s.setSt b).stLatch = s.stLatch := rfl
@[simp] theorem State.setSt_postStopDt (s : State) (b : Byte) : (s.setSt b).postStopDt = s.postStopDt := rfl
@[simp] theorem State.setSt_postStopSt (s : State) (b : Byte) : (s.setSt b).postStopSt = s.postStopSt := rfl
@[simp] theorem State.setSt_mem (s : State) (b : Byte) : (s.setSt b).mem = s.mem := rfl
@[simp] theorem State.setSt_cfg (s : State) (b : Byte) : (s.setSt b).cfg = s.cfg := rfl
@[simp] theorem State.setSt_dispOut (s : State) (b : Byte) : (s.setSt b).dispOut = s.dispOut := rfl
@[simp] theorem State.setSt_draws (s : State) (b : Byte) : (s.setSt b).draws = s.draws := rfl
@[simp] theorem State.setSt_schedule (s : State) (b : Byte) : (s.setSt b).schedule = s.schedule := rfl
@[simp] theorem State.setSt_getV (s : State) (b : Byte) (r : Reg) : (s.setSt b).getV r = s.getV r := rfl
@[simp] theorem State.setSt_readByte (s : State) (b : Byte) (c : Nat) : (s.setSt b).readByte c = s.readByte c := rfl

/-! `State.writeByte` -/

@[simp] theorem State.writeByte_v (s : State) (a : Nat) (b : Byte) : (s.writeByte a b).v = s.v := rfl
@[simp] theorem State.writeByte_i (s : State) (a : Nat) (b : Byte) : (s.writeByte a b).i = s.i := rfl
@[simp] theorem State.writeByte_pc (s : State) (a : Nat) (b : Byte) : (s.writeByte a b).pc = s.pc := rfl
@[simp] theorem State.writeByte_sp (s : State) (a : Nat) (b : Byte) : (s.writeByte a b).sp = s.sp := rfl
@[simp] theorem State.writeByte_stack (s : State) (a : Nat) (b : Byte) : (s.writeByte a b).stack = s.stack := rfl
@[simp] theorem State.writeByte_dt (s : State) (a : Nat) (b : Byte) : (s.writeByte a b).dt = s.dt := rfl
@[simp] theorem State.writeByte_st (s : State) (a : Nat) (b : Byte) : (s.writeByte a b).st = s.st := rfl
@[simp] theorem State.writeByte_runState (s : State) (a : Nat) (b : Byte) : (s.writeByte a b).runState = s.runState := rfl
@[simp] theorem State.writeByte_faultKind (s : State) (a : Nat) (b : Byte) : (s.writeByte a b).faultKind = s.faultKind := rfl
@[simp] theorem State.writeByte_outcome (s : State) (a : Nat) (b : Byte) : (s.writeByte a b).outcome = s.outcome := rfl
@[simp] theorem State.writeByte_stLatch (s : State) (a : Nat) (b : Byte) : (s.writeByte a b).stLatch = s.stLatch := rfl
@[simp] theorem State.writeByte_postStopDt (s : State) (a : Nat) (b : Byte) : (s.writeByte a b).postStopDt = s.postStopDt := rfl
@[simp] theorem State.writeByte_postStopSt (s : State) (a : Nat) (b : Byte) : (s.writeByte a b).postStopSt = s.postStopSt := rfl
@[simp] theorem State.writeByte_mem (s : State) (a : Nat) (b : Byte) : (s.writeByte a b).mem = Memory.write (resetByte s.cfg) a b s.mem := rfl
@[simp] theorem State.writeByte_cfg (s : State) (a : Nat) (b : Byte) : (s.writeByte a b).cfg = s.cfg := rfl
@[simp] theorem State.writeByte_dispOut (s : State) (a : Nat) (b : Byte) : (s.writeByte a b).dispOut = s.dispOut := rfl
@[simp] theorem State.writeByte_draws (s : State) (a : Nat) (b : Byte) : (s.writeByte a b).draws = s.draws := rfl
@[simp] theorem State.writeByte_schedule (s : State) (a : Nat) (b : Byte) : (s.writeByte a b).schedule = s.schedule := rfl
@[simp] theorem State.writeByte_getV (s : State) (a : Nat) (b : Byte) (r : Reg) : (s.writeByte a b).getV r = s.getV r := rfl

/-! `State.dropRnd` -/

@[simp] theorem State.dropRnd_v (s : State) : s.dropRnd.v = s.v := rfl
@[simp] theorem State.dropRnd_i (s : State) : s.dropRnd.i = s.i := rfl
@[simp] theorem State.dropRnd_pc (s : State) : s.dropRnd.pc = s.pc := rfl
@[simp] theorem State.dropRnd_sp (s : State) : s.dropRnd.sp = s.sp := rfl
@[simp] theorem State.dropRnd_stack (s : State) : s.dropRnd.stack = s.stack := rfl
@[simp] theorem State.dropRnd_dt (s : State) : s.dropRnd.dt = s.dt := rfl
@[simp] theorem State.dropRnd_st (s : State) : s.dropRnd.st = s.st := rfl
@[simp] theorem State.dropRnd_runState (s : State) : s.dropRnd.runState = s.runState := rfl
@[simp] theorem State.dropRnd_faultKind (s : State) : s.dropRnd.faultKind = s.faultKind := rfl
@[simp] theorem State.dropRnd_outcome (s : State) : s.dropRnd.outcome = s.outcome := rfl
@[simp] theorem State.dropRnd_stLatch (s : State) : s.dropRnd.stLatch = s.stLatch := rfl
@[simp] theorem State.dropRnd_postStopDt (s : State) : s.dropRnd.postStopDt = s.postStopDt := rfl
@[simp] theorem State.dropRnd_postStopSt (s : State) : s.dropRnd.postStopSt = s.postStopSt := rfl
@[simp] theorem State.dropRnd_mem (s : State) : s.dropRnd.mem = s.mem := rfl
@[simp] theorem State.dropRnd_cfg (s : State) : s.dropRnd.cfg = s.cfg := rfl
@[simp] theorem State.dropRnd_dispOut (s : State) : s.dropRnd.dispOut = s.dispOut := rfl
@[simp] theorem State.dropRnd_draws (s : State) : s.dropRnd.draws = { s.draws with rnd := s.draws.rnd.tail, count := s.draws.count + 1 } := rfl
@[simp] theorem State.dropRnd_schedule (s : State) : s.dropRnd.schedule = s.schedule := rfl
@[simp] theorem State.dropRnd_getV (s : State) (r : Reg) : s.dropRnd.getV r = s.getV r := rfl
@[simp] theorem State.dropRnd_readByte (s : State) (c : Nat) : s.dropRnd.readByte c = s.readByte c := rfl

/-! `State.dropKeys` -/

@[simp] theorem State.dropKeys_v (s : State) : s.dropKeys.v = s.v := rfl
@[simp] theorem State.dropKeys_i (s : State) : s.dropKeys.i = s.i := rfl
@[simp] theorem State.dropKeys_pc (s : State) : s.dropKeys.pc = s.pc := rfl
@[simp] theorem State.dropKeys_sp (s : State) : s.dropKeys.sp = s.sp := rfl
@[simp] theorem State.dropKeys_stack (s : State) : s.dropKeys.stack = s.stack := rfl
@[simp] theorem State.dropKeys_dt (s : State) : s.dropKeys.dt = s.dt := rfl
@[simp] theorem State.dropKeys_st (s : State) : s.dropKeys.st = s.st := rfl
@[simp] theorem State.dropKeys_runState (s : State) : s.dropKeys.runState = s.runState := rfl
@[simp] theorem State.dropKeys_faultKind (s : State) : s.dropKeys.faultKind = s.faultKind := rfl
@[simp] theorem State.dropKeys_outcome (s : State) : s.dropKeys.outcome = s.outcome := rfl
@[simp] theorem State.dropKeys_stLatch (s : State) : s.dropKeys.stLatch = s.stLatch := rfl
@[simp] theorem State.dropKeys_postStopDt (s : State) : s.dropKeys.postStopDt = s.postStopDt := rfl
@[simp] theorem State.dropKeys_postStopSt (s : State) : s.dropKeys.postStopSt = s.postStopSt := rfl
@[simp] theorem State.dropKeys_mem (s : State) : s.dropKeys.mem = s.mem := rfl
@[simp] theorem State.dropKeys_cfg (s : State) : s.dropKeys.cfg = s.cfg := rfl
@[simp] theorem State.dropKeys_dispOut (s : State) : s.dropKeys.dispOut = s.dispOut := rfl
@[simp] theorem State.dropKeys_draws (s : State) : s.dropKeys.draws = { s.draws with keys := s.draws.keys.tail, count := s.draws.count + 1 } := rfl
@[simp] theorem State.dropKeys_schedule (s : State) : s.dropKeys.schedule = s.schedule := rfl
@[simp] theorem State.dropKeys_getV (s : State) (r : Reg) : s.dropKeys.getV r = s.getV r := rfl
@[simp] theorem State.dropKeys_readByte (s : State) (c : Nat) : s.dropKeys.readByte c = s.readByte c := rfl

/-! `State.dropCollision` -/

@[simp] theorem State.dropCollision_v (s : State) : s.dropCollision.v = s.v := rfl
@[simp] theorem State.dropCollision_i (s : State) : s.dropCollision.i = s.i := rfl
@[simp] theorem State.dropCollision_pc (s : State) : s.dropCollision.pc = s.pc := rfl
@[simp] theorem State.dropCollision_sp (s : State) : s.dropCollision.sp = s.sp := rfl
@[simp] theorem State.dropCollision_stack (s : State) : s.dropCollision.stack = s.stack := rfl
@[simp] theorem State.dropCollision_dt (s : State) : s.dropCollision.dt = s.dt := rfl
@[simp] theorem State.dropCollision_st (s : State) : s.dropCollision.st = s.st := rfl
@[simp] theorem State.dropCollision_runState (s : State) : s.dropCollision.runState = s.runState := rfl
@[simp] theorem State.dropCollision_faultKind (s : State) : s.dropCollision.faultKind = s.faultKind := rfl
@[simp] theorem State.dropCollision_outcome (s : State) : s.dropCollision.outcome = s.outcome := rfl
@[simp] theorem State.dropCollision_stLatch (s : State) : s.dropCollision.stLatch = s.stLatch := rfl
@[simp] theorem State.dropCollision_postStopDt (s : State) : s.dropCollision.postStopDt = s.postStopDt := rfl
@[simp] theorem State.dropCollision_postStopSt (s : State) : s.dropCollision.postStopSt = s.postStopSt := rfl
@[simp] theorem State.dropCollision_mem (s : State) : s.dropCollision.mem = s.mem := rfl
@[simp] theorem State.dropCollision_cfg (s : State) : s.dropCollision.cfg = s.cfg := rfl
@[simp] theorem State.dropCollision_dispOut (s : State) : s.dropCollision.dispOut = s.dispOut := rfl
@[simp] theorem State.dropCollision_draws (s : State) : s.dropCollision.draws = { s.draws with collision := s.draws.collision.tail, count := s.draws.count + 1 } := rfl
@[simp] theorem State.dropCollision_schedule (s : State) : s.dropCollision.schedule = s.schedule := rfl
@[simp] theorem State.dropCollision_getV (s : State) (r : Reg) : s.dropCollision.getV r = s.getV r := rfl
@[simp] theorem State.dropCollision_readByte (s : State) (c : Nat) : s.dropCollision.readByte c = s.readByte c := rfl

/-! `State.emit` -/

@[simp] theorem State.emit_v (s : State) (q : DispRequest) : (s.emit q).v = s.v := rfl
@[simp] theorem State.emit_i (s : State) (q : DispRequest) : (s.emit q).i = s.i := rfl
@[simp] theorem State.emit_pc (s : State) (q : DispRequest) : (s.emit q).pc = s.pc := rfl
@[simp] theorem State.emit_sp (s : State) (q : DispRequest) : (s.emit q).sp = s.sp := rfl
@[simp] theorem State.emit_stack (s : State) (q : DispRequest) : (s.emit q).stack = s.stack := rfl
@[simp] theorem State.emit_dt (s : State) (q : DispRequest) : (s.emit q).dt = s.dt := rfl
@[simp] theorem State.emit_st (s : State) (q : DispRequest) : (s.emit q).st = s.st := rfl
@[simp] theorem State.emit_runState (s : State) (q : DispRequest) : (s.emit q).runState = s.runState := rfl
@[simp] theorem State.emit_faultKind (s : State) (q : DispRequest) : (s.emit q).faultKind = s.faultKind := rfl
@[simp] theorem State.emit_outcome (s : State) (q : DispRequest) : (s.emit q).outcome = s.outcome := rfl
@[simp] theorem State.emit_stLatch (s : State) (q : DispRequest) : (s.emit q).stLatch = s.stLatch := rfl
@[simp] theorem State.emit_postStopDt (s : State) (q : DispRequest) : (s.emit q).postStopDt = s.postStopDt := rfl
@[simp] theorem State.emit_postStopSt (s : State) (q : DispRequest) : (s.emit q).postStopSt = s.postStopSt := rfl
@[simp] theorem State.emit_mem (s : State) (q : DispRequest) : (s.emit q).mem = s.mem := rfl
@[simp] theorem State.emit_cfg (s : State) (q : DispRequest) : (s.emit q).cfg = s.cfg := rfl
@[simp] theorem State.emit_dispOut (s : State) (q : DispRequest) : (s.emit q).dispOut = s.dispOut ++ [q] := rfl
@[simp] theorem State.emit_draws (s : State) (q : DispRequest) : (s.emit q).draws = s.draws := rfl
@[simp] theorem State.emit_schedule (s : State) (q : DispRequest) : (s.emit q).schedule = s.schedule := rfl
@[simp] theorem State.emit_getV (s : State) (q : DispRequest) (r : Reg) : (s.emit q).getV r = s.getV r := rfl
@[simp] theorem State.emit_readByte (s : State) (q : DispRequest) (c : Nat) : (s.emit q).readByte c = s.readByte c := rfl

/-! `State.stop` -/

@[simp] theorem State.stop_v (s : State) (q : RunState) : (s.stop q).v = s.v := rfl
@[simp] theorem State.stop_i (s : State) (q : RunState) : (s.stop q).i = s.i := rfl
@[simp] theorem State.stop_pc (s : State) (q : RunState) : (s.stop q).pc = s.pc := rfl
@[simp] theorem State.stop_sp (s : State) (q : RunState) : (s.stop q).sp = s.sp := rfl
@[simp] theorem State.stop_stack (s : State) (q : RunState) : (s.stop q).stack = s.stack := rfl
@[simp] theorem State.stop_dt (s : State) (q : RunState) : (s.stop q).dt = s.dt := rfl
@[simp] theorem State.stop_st (s : State) (q : RunState) : (s.stop q).st = s.st := rfl
@[simp] theorem State.stop_runState (s : State) (q : RunState) : (s.stop q).runState = q := rfl
@[simp] theorem State.stop_faultKind (s : State) (q : RunState) : (s.stop q).faultKind = s.faultKind := rfl
@[simp] theorem State.stop_outcome (s : State) (q : RunState) : (s.stop q).outcome = s.outcome := rfl
@[simp] theorem State.stop_stLatch (s : State) (q : RunState) : (s.stop q).stLatch = s.stLatch := rfl
@[simp] theorem State.stop_postStopDt (s : State) (q : RunState) : (s.stop q).postStopDt = true := rfl
@[simp] theorem State.stop_postStopSt (s : State) (q : RunState) : (s.stop q).postStopSt = true := rfl
@[simp] theorem State.stop_mem (s : State) (q : RunState) : (s.stop q).mem = s.mem := rfl
@[simp] theorem State.stop_cfg (s : State) (q : RunState) : (s.stop q).cfg = s.cfg := rfl
@[simp] theorem State.stop_dispOut (s : State) (q : RunState) : (s.stop q).dispOut = s.dispOut := rfl
@[simp] theorem State.stop_draws (s : State) (q : RunState) : (s.stop q).draws = s.draws := rfl
@[simp] theorem State.stop_schedule (s : State) (q : RunState) : (s.stop q).schedule = s.schedule := rfl
@[simp] theorem State.stop_getV (s : State) (q : RunState) (r : Reg) : (s.stop q).getV r = s.getV r := rfl
@[simp] theorem State.stop_readByte (s : State) (q : RunState) (c : Nat) : (s.stop q).readByte c = s.readByte c := rfl

/-! `State.takeFault` -/

@[simp] theorem State.takeFault_v (s : State) (k : FaultKind) : (s.takeFault k).v = s.v := rfl
@[simp] theorem State.takeFault_i (s : State) (k : FaultKind) : (s.takeFault k).i = s.i := rfl
@[simp] theorem State.takeFault_pc (s : State) (k : FaultKind) : (s.takeFault k).pc = s.pc := rfl
@[simp] theorem State.takeFault_sp (s : State) (k : FaultKind) : (s.takeFault k).sp = s.sp := rfl
@[simp] theorem State.takeFault_stack (s : State) (k : FaultKind) : (s.takeFault k).stack = s.stack := rfl
@[simp] theorem State.takeFault_dt (s : State) (k : FaultKind) : (s.takeFault k).dt = s.dt := rfl
@[simp] theorem State.takeFault_st (s : State) (k : FaultKind) : (s.takeFault k).st = s.st := rfl
@[simp] theorem State.takeFault_runState (s : State) (k : FaultKind) : (s.takeFault k).runState = .faulted := rfl
@[simp] theorem State.takeFault_faultKind (s : State) (k : FaultKind) : (s.takeFault k).faultKind = some k := rfl
@[simp] theorem State.takeFault_outcome (s : State) (k : FaultKind) : (s.takeFault k).outcome = s.outcome := rfl
@[simp] theorem State.takeFault_stLatch (s : State) (k : FaultKind) : (s.takeFault k).stLatch = s.stLatch := rfl
@[simp] theorem State.takeFault_postStopDt (s : State) (k : FaultKind) : (s.takeFault k).postStopDt = true := rfl
@[simp] theorem State.takeFault_postStopSt (s : State) (k : FaultKind) : (s.takeFault k).postStopSt = true := rfl
@[simp] theorem State.takeFault_mem (s : State) (k : FaultKind) : (s.takeFault k).mem = s.mem := rfl
@[simp] theorem State.takeFault_cfg (s : State) (k : FaultKind) : (s.takeFault k).cfg = s.cfg := rfl
@[simp] theorem State.takeFault_dispOut (s : State) (k : FaultKind) : (s.takeFault k).dispOut = s.dispOut := rfl
@[simp] theorem State.takeFault_draws (s : State) (k : FaultKind) : (s.takeFault k).draws = s.draws := rfl
@[simp] theorem State.takeFault_schedule (s : State) (k : FaultKind) : (s.takeFault k).schedule = s.schedule := rfl
@[simp] theorem State.takeFault_getV (s : State) (k : FaultKind) (r : Reg) : (s.takeFault k).getV r = s.getV r := rfl
@[simp] theorem State.takeFault_readByte (s : State) (k : FaultKind) (c : Nat) : (s.takeFault k).readByte c = s.readByte c := rfl

/-! `State.setOutcome` -/

@[simp] theorem State.setOutcome_v (s : State) (o : InstrOutcome) : (s.setOutcome o).v = s.v := rfl
@[simp] theorem State.setOutcome_i (s : State) (o : InstrOutcome) : (s.setOutcome o).i = s.i := rfl
@[simp] theorem State.setOutcome_pc (s : State) (o : InstrOutcome) : (s.setOutcome o).pc = s.pc := rfl
@[simp] theorem State.setOutcome_sp (s : State) (o : InstrOutcome) : (s.setOutcome o).sp = s.sp := rfl
@[simp] theorem State.setOutcome_stack (s : State) (o : InstrOutcome) : (s.setOutcome o).stack = s.stack := rfl
@[simp] theorem State.setOutcome_dt (s : State) (o : InstrOutcome) : (s.setOutcome o).dt = s.dt := rfl
@[simp] theorem State.setOutcome_st (s : State) (o : InstrOutcome) : (s.setOutcome o).st = s.st := rfl
@[simp] theorem State.setOutcome_runState (s : State) (o : InstrOutcome) : (s.setOutcome o).runState = s.runState := rfl
@[simp] theorem State.setOutcome_faultKind (s : State) (o : InstrOutcome) : (s.setOutcome o).faultKind = s.faultKind := rfl
@[simp] theorem State.setOutcome_outcome (s : State) (o : InstrOutcome) : (s.setOutcome o).outcome = some o := rfl
@[simp] theorem State.setOutcome_stLatch (s : State) (o : InstrOutcome) : (s.setOutcome o).stLatch = s.stLatch := rfl
@[simp] theorem State.setOutcome_postStopDt (s : State) (o : InstrOutcome) : (s.setOutcome o).postStopDt = s.postStopDt := rfl
@[simp] theorem State.setOutcome_postStopSt (s : State) (o : InstrOutcome) : (s.setOutcome o).postStopSt = s.postStopSt := rfl
@[simp] theorem State.setOutcome_mem (s : State) (o : InstrOutcome) : (s.setOutcome o).mem = s.mem := rfl
@[simp] theorem State.setOutcome_cfg (s : State) (o : InstrOutcome) : (s.setOutcome o).cfg = s.cfg := rfl
@[simp] theorem State.setOutcome_dispOut (s : State) (o : InstrOutcome) : (s.setOutcome o).dispOut = s.dispOut := rfl
@[simp] theorem State.setOutcome_draws (s : State) (o : InstrOutcome) : (s.setOutcome o).draws = s.draws := rfl
@[simp] theorem State.setOutcome_schedule (s : State) (o : InstrOutcome) : (s.setOutcome o).schedule = s.schedule := rfl
@[simp] theorem State.setOutcome_getV (s : State) (o : InstrOutcome) (r : Reg) : (s.setOutcome o).getV r = s.getV r := rfl
@[simp] theorem State.setOutcome_readByte (s : State) (o : InstrOutcome) (c : Nat) : (s.setOutcome o).readByte c = s.readByte c := rfl

/-! `State.popSchedule` -/

@[simp] theorem State.popSchedule_v (s : State) : s.popSchedule.v = s.v := rfl
@[simp] theorem State.popSchedule_i (s : State) : s.popSchedule.i = s.i := rfl
@[simp] theorem State.popSchedule_pc (s : State) : s.popSchedule.pc = s.pc := rfl
@[simp] theorem State.popSchedule_sp (s : State) : s.popSchedule.sp = s.sp := rfl
@[simp] theorem State.popSchedule_stack (s : State) : s.popSchedule.stack = s.stack := rfl
@[simp] theorem State.popSchedule_dt (s : State) : s.popSchedule.dt = s.dt := rfl
@[simp] theorem State.popSchedule_st (s : State) : s.popSchedule.st = s.st := rfl
@[simp] theorem State.popSchedule_runState (s : State) : s.popSchedule.runState = s.runState := rfl
@[simp] theorem State.popSchedule_faultKind (s : State) : s.popSchedule.faultKind = s.faultKind := rfl
@[simp] theorem State.popSchedule_outcome (s : State) : s.popSchedule.outcome = s.outcome := rfl
@[simp] theorem State.popSchedule_stLatch (s : State) : s.popSchedule.stLatch = s.stLatch := rfl
@[simp] theorem State.popSchedule_postStopDt (s : State) : s.popSchedule.postStopDt = s.postStopDt := rfl
@[simp] theorem State.popSchedule_postStopSt (s : State) : s.popSchedule.postStopSt = s.postStopSt := rfl
@[simp] theorem State.popSchedule_mem (s : State) : s.popSchedule.mem = s.mem := rfl
@[simp] theorem State.popSchedule_cfg (s : State) : s.popSchedule.cfg = s.cfg := rfl
@[simp] theorem State.popSchedule_dispOut (s : State) : s.popSchedule.dispOut = s.dispOut := rfl
@[simp] theorem State.popSchedule_draws (s : State) : s.popSchedule.draws = s.draws := rfl
@[simp] theorem State.popSchedule_schedule (s : State) : s.popSchedule.schedule = s.schedule.tail := rfl
@[simp] theorem State.popSchedule_getV (s : State) (r : Reg) : s.popSchedule.getV r = s.getV r := rfl
@[simp] theorem State.popSchedule_readByte (s : State) (c : Nat) : s.popSchedule.readByte c = s.readByte c := rfl

/-! `State.withDebug` -/

@[simp] theorem State.withDebug_v (s : State) (b : Bool) : (s.withDebug b).v = s.v := rfl
@[simp] theorem State.withDebug_i (s : State) (b : Bool) : (s.withDebug b).i = s.i := rfl
@[simp] theorem State.withDebug_pc (s : State) (b : Bool) : (s.withDebug b).pc = s.pc := rfl
@[simp] theorem State.withDebug_sp (s : State) (b : Bool) : (s.withDebug b).sp = s.sp := rfl
@[simp] theorem State.withDebug_stack (s : State) (b : Bool) : (s.withDebug b).stack = s.stack := rfl
@[simp] theorem State.withDebug_dt (s : State) (b : Bool) : (s.withDebug b).dt = s.dt := rfl
@[simp] theorem State.withDebug_st (s : State) (b : Bool) : (s.withDebug b).st = s.st := rfl
@[simp] theorem State.withDebug_runState (s : State) (b : Bool) : (s.withDebug b).runState = s.runState := rfl
@[simp] theorem State.withDebug_faultKind (s : State) (b : Bool) : (s.withDebug b).faultKind = s.faultKind := rfl
@[simp] theorem State.withDebug_outcome (s : State) (b : Bool) : (s.withDebug b).outcome = s.outcome := rfl
@[simp] theorem State.withDebug_stLatch (s : State) (b : Bool) : (s.withDebug b).stLatch = s.stLatch := rfl
@[simp] theorem State.withDebug_postStopDt (s : State) (b : Bool) : (s.withDebug b).postStopDt = s.postStopDt := rfl
@[simp] theorem State.withDebug_postStopSt (s : State) (b : Bool) : (s.withDebug b).postStopSt = s.postStopSt := rfl
@[simp] theorem State.withDebug_mem (s : State) (b : Bool) : (s.withDebug b).mem = s.mem := rfl
@[simp] theorem State.withDebug_cfg (s : State) (b : Bool) : (s.withDebug b).cfg = { s.cfg with debug := b } := rfl
@[simp] theorem State.withDebug_dispOut (s : State) (b : Bool) : (s.withDebug b).dispOut = s.dispOut := rfl
@[simp] theorem State.withDebug_draws (s : State) (b : Bool) : (s.withDebug b).draws = s.draws := rfl
@[simp] theorem State.withDebug_schedule (s : State) (b : Bool) : (s.withDebug b).schedule = s.schedule := rfl
@[simp] theorem State.withDebug_getV (s : State) (b : Bool) (r : Reg) : (s.withDebug b).getV r = s.getV r := rfl
@[simp] theorem State.withDebug_readByte (s : State) (b : Bool) (c : Nat) : (s.withDebug b).readByte c = s.readByte c := rfl

end Sys2Proof.Machine
end

