-- ==== Sys2Proof/Laws/Memory.lean ====
section
/-! SUPPORT. What memory operations do: reads after writes, and that the canonical form is kept. -/

namespace Sys2Proof.Machine

/-! ### The list of cells -/

theorem Memory.lookup_put (a c : Nat) (v : Byte) (m : Memory) :
    Memory.lookup (Memory.put a v m) c = if c = a then some v else Memory.lookup m c := by
  induction m with
  | nil => simp [Memory.put, Memory.lookup]
  | cons p m ih =>
    obtain ⟨b, u⟩ := p
    simp only [Memory.put]
    split
    · by_cases h : c = a <;> simp [Memory.lookup, h]
    · split
      · subst b; by_cases h : c = a <;> simp [Memory.lookup, h]
      · rename_i h1 h2
        by_cases h : c = b
        · subst c
          have : ¬ b = a := fun e => h2 e.symm
          simp [Memory.lookup, this]
        · simp [Memory.lookup, h, ih]

theorem Memory.lookup_erase (a c : Nat) (m : Memory) :
    Memory.lookup (Memory.erase a m) c = if c = a then none else Memory.lookup m c := by
  induction m with
  | nil => simp [Memory.erase, Memory.lookup]
  | cons p m ih =>
    obtain ⟨b, u⟩ := p
    simp only [Memory.erase]
    split
    · subst b
      rw [ih]
      by_cases h : c = a <;> simp [Memory.lookup, h]
    · rename_i h2
      by_cases h : c = b
      · subst c
        have : ¬ b = a := fun e => h2 e.symm
        simp [Memory.lookup, this]
      · simp [Memory.lookup, h, ih]

/-- A read after a write: the written byte at its address, the old byte anywhere else. -/
theorem Memory.read_write (d : Nat → Byte) (a c : Nat) (v : Byte) (m : Memory) :
    Memory.read d (Memory.write d a v m) c = if c = a then v else Memory.read d m c := by
  unfold Memory.read Memory.write
  split
  · rename_i h
    rw [Memory.lookup_erase]
    by_cases hc : c = a <;> simp [hc, h]
  · rw [Memory.lookup_put]
    by_cases hc : c = a <;> simp [hc]

theorem Memory.wfFrom_mono (d : Nat → Byte) {lo lo' : Nat} (h : lo' ≤ lo) {m : Memory}
    (hm : Memory.wfFrom d lo m = true) : Memory.wfFrom d lo' m = true := by
  cases m with
  | nil => rfl
  | cons p m =>
    obtain ⟨b, u⟩ := p
    simp only [Memory.wfFrom, Bool.and_eq_true, decide_eq_true_eq] at hm ⊢
    exact ⟨⟨⟨by omega, hm.1.1.2⟩, hm.1.2⟩, hm.2⟩

theorem Memory.wfFrom_put (d : Nat → Byte) {a : Nat} {v : Byte} (ha : a < 4096) (hv : v ≠ d a) {lo : Nat} {m : Memory}
    (hlo : lo ≤ a) (hm : Memory.wfFrom d lo m = true) : Memory.wfFrom d lo (Memory.put a v m) = true := by
  induction m generalizing lo with
  | nil => simp [Memory.put, Memory.wfFrom, hlo, ha, hv]
  | cons p m ih =>
    obtain ⟨b, u⟩ := p
    simp only [Memory.wfFrom, Bool.and_eq_true, decide_eq_true_eq] at hm
    simp only [Memory.put]
    split
    · simp only [Memory.wfFrom, Bool.and_eq_true, decide_eq_true_eq]
      exact ⟨⟨⟨hlo, ha⟩, hv⟩, ⟨⟨by omega, hm.1.1.2⟩, hm.1.2⟩, hm.2⟩
    · split
      · subst b
        simp only [Memory.wfFrom, Bool.and_eq_true, decide_eq_true_eq]
        exact ⟨⟨⟨hlo, ha⟩, hv⟩, hm.2⟩
      · simp only [Memory.wfFrom, Bool.and_eq_true, decide_eq_true_eq]
        exact ⟨hm.1, ih (by omega) hm.2⟩

theorem Memory.wfFrom_erase (d : Nat → Byte) (a : Nat) {lo : Nat} {m : Memory}
    (hm : Memory.wfFrom d lo m = true) : Memory.wfFrom d lo (Memory.erase a m) = true := by
  induction m generalizing lo with
  | nil => rfl
  | cons p m ih =>
    obtain ⟨b, u⟩ := p
    simp only [Memory.wfFrom, Bool.and_eq_true, decide_eq_true_eq] at hm
    simp only [Memory.erase]
    split
    · exact Memory.wfFrom_mono d (by omega) (ih hm.2)
    · simp only [Memory.wfFrom, Bool.and_eq_true, decide_eq_true_eq]
      exact ⟨hm.1, ih hm.2⟩

/-- A write in bounds keeps the canonical form. -/
theorem Memory.wf_write (d : Nat → Byte) {a : Nat} (v : Byte) {m : Memory} (ha : a < 4096)
    (hm : Memory.wf d m = true) : Memory.wf d (Memory.write d a v m) = true := by
  unfold Memory.write
  split
  · exact Memory.wfFrom_erase d a hm
  · exact Memory.wfFrom_put d ha (by assumption) (Nat.zero_le a) hm

/-- Reset's memory, with nothing listed, is in canonical form. -/
theorem Memory.wf_nil (d : Nat → Byte) : Memory.wf d [] = true := rfl

theorem Memory.lookup_lt_none (d : Nat → Byte) {lo a : Nat} {m : Memory} (hm : Memory.wfFrom d lo m = true)
    (ha : a < lo) : Memory.lookup m a = none := by
  induction m generalizing lo with
  | nil => rfl
  | cons p m ih =>
    obtain ⟨b, u⟩ := p
    simp only [Memory.wfFrom, Bool.and_eq_true, decide_eq_true_eq] at hm
    have hb : ¬ a = b := by omega
    simp only [Memory.lookup, if_neg hb]
    exact ih hm.2 (by omega)

/-! ### Registers and bytes of a state -/

@[simp] theorem State.getV_setV_self (s : State) (x : Reg) (b : Byte) : (s.setV x b).getV x = b := by
  simp [State.getV, State.setV]

theorem State.getV_setV (s : State) (x r : Reg) (b : Byte) :
    (s.setV x b).getV r = if r = x then b else s.getV r := by
  simp only [State.getV, State.setV, Fin.getElem_fin, Vector.getElem_set]
  by_cases h : r = x
  · simp [h]
  · have : ¬ x.val = r.val := fun e => h (Fin.ext e.symm)
    simp [h, this]

@[simp] theorem State.readByte_setV (s : State) (x : Reg) (b : Byte) (c : Nat) :
    (s.setV x b).readByte c = s.readByte c := rfl

@[simp] theorem State.getV_writeByte (s : State) (a : Nat) (b : Byte) (r : Reg) :
    (s.writeByte a b).getV r = s.getV r := rfl

theorem State.readByte_writeByte (s : State) (a c : Nat) (b : Byte) :
    (s.writeByte a b).readByte c = if c = a then b else s.readByte c :=
  Memory.read_write (resetByte s.cfg) a c b s.mem

/-! ### Block transfers -/

/-- A block store writes memory only. -/
theorem State.storeBlock_mem_only (bs : List Byte) (a : Nat) (s : State) :
    (State.storeBlock bs a s).1 = { s with mem := (State.storeBlock bs a s).1.mem } := by
  induction bs generalizing a s with
  | nil => rfl
  | cons b bs ih =>
    simp only [State.storeBlock, State.memWrite]
    split <;> rename_i h
    · rfl
    · split at h
      · cases h
      · cases h
        rw [ih]
        rfl

/-- A block store faults exactly when it has a byte above 0xFFF (R65). -/
theorem State.storeBlock_fault (bs : List Byte) (a : Nat) (s : State) :
    (State.storeBlock bs a s).2 =
      if bs = [] ∨ a + bs.length ≤ 4096 then none else some .outOfBoundsMemoryAccess := by
  induction bs generalizing a s with
  | nil => simp [State.storeBlock]
  | cons b bs ih =>
    simp only [State.storeBlock, State.memWrite]
    split <;> rename_i h
    · split at h
      · cases h
        have : ¬ ((b :: bs) = [] ∨ a + (b :: bs).length ≤ 4096) := by simp only [List.length_cons]; simp; omega
        rw [if_neg this]
      · cases h
    · split at h
      · cases h
      · cases h
        rw [ih]
        cases bs with
        | nil => simp; omega
        | cons c cs => simp only [List.length_cons]; simp; congr 1; apply propext; omega

/-- What each byte reads as after a block store, whether it faults or not. -/
theorem State.storeBlock_readByte (bs : List Byte) (a : Nat) (s : State) (c : Nat) :
    (State.storeBlock bs a s).1.readByte c =
      if h : a ≤ c ∧ c < a + bs.length ∧ c < 4096 then bs[c - a]'(by omega) else s.readByte c := by
  induction bs generalizing a s with
  | nil =>
    have : ¬ (a ≤ c ∧ c < a + ([] : List Byte).length ∧ c < 4096) := by simp; omega
    rw [dif_neg this]; rfl
  | cons b bs ih =>
    simp only [State.storeBlock, State.memWrite]
    split <;> rename_i h
    · split at h
      · have : ¬ (a ≤ c ∧ c < a + (b :: bs).length ∧ c < 4096) := by omega
        rw [dif_neg this]
      · cases h
    · split at h
      · cases h
      · cases h
        rw [ih, State.readByte_writeByte]
        by_cases hc : c = a
        · subst c
          have h1 : ¬ (a + 1 ≤ a ∧ a < a + 1 + bs.length ∧ a < 4096) := by omega
          have h2 : a ≤ a ∧ a < a + (b :: bs).length ∧ a < 4096 := by simp; omega
          rw [dif_neg h1, dif_pos h2]; simp
        · by_cases h1 : a + 1 ≤ c ∧ c < a + 1 + bs.length ∧ c < 4096
          · have h2 : a ≤ c ∧ c < a + (b :: bs).length ∧ c < 4096 := by
              simp only [List.length_cons]; omega
            rw [dif_pos h1, dif_pos h2]
            have e : c - a = (c - (a + 1)) + 1 := by omega
            simp [e]
          · have h2 : ¬ (a ≤ c ∧ c < a + (b :: bs).length ∧ c < 4096) := by
              simp only [List.length_cons]; omega
            rw [dif_neg h1, dif_neg h2, if_neg hc]

/-- A block store keeps the canonical form. -/
theorem State.storeBlock_wf (bs : List Byte) (a : Nat) (s : State) (h : Memory.wf (resetByte s.cfg) s.mem = true) :
    Memory.wf (resetByte s.cfg) (State.storeBlock bs a s).1.mem = true := by
  induction bs generalizing a s with
  | nil => exact h
  | cons b bs ih =>
    simp only [State.storeBlock, State.memWrite]
    split <;> rename_i hm
    · exact h
    · split at hm
      · cases hm
      · cases hm
        exact ih (a + 1) (s.writeByte a b) (Memory.wf_write _ b (by omega) h)

/-- A block load writes registers only. -/
theorem State.loadBlock_v_only (rs : List Reg) (a : Nat) (s : State) :
    (State.loadBlock rs a s).1 = { s with v := (State.loadBlock rs a s).1.v } := by
  induction rs generalizing a s with
  | nil => rfl
  | cons r rs ih =>
    simp only [State.loadBlock, State.memRead]
    split <;> rename_i h
    · rfl
    · rw [ih]; rfl

/-- A block load faults exactly when it has a byte above 0xFFF (R65). -/
theorem State.loadBlock_fault (rs : List Reg) (a : Nat) (s : State) :
    (State.loadBlock rs a s).2 =
      if rs = [] ∨ a + rs.length ≤ 4096 then none else some .outOfBoundsMemoryAccess := by
  induction rs generalizing a s with
  | nil => simp [State.loadBlock]
  | cons r rs ih =>
    simp only [State.loadBlock, State.memRead]
    split <;> rename_i h
    · split at h
      · cases h
        have : ¬ ((r :: rs) = [] ∨ a + (r :: rs).length ≤ 4096) := by simp only [List.length_cons]; simp; omega
        rw [if_neg this]
      · cases h
    · split at h
      · cases h
      · rw [ih]
        cases rs with
        | nil => simp; omega
        | cons c cs => simp only [List.length_cons]; simp; congr 1; apply propext; omega

/-- A register that is not listed keeps its value. -/
theorem State.loadBlock_getV_other (rs : List Reg) (a : Nat) (s : State) {r : Reg} (h : r ∉ rs) :
    (State.loadBlock rs a s).1.getV r = s.getV r := by
  induction rs generalizing a s with
  | nil => rfl
  | cons q rs ih =>
    simp only [List.mem_cons, not_or] at h
    simp only [State.loadBlock]
    split
    · rfl
    · rw [ih _ _ h.2, State.getV_setV, if_neg h.1]

/-- The `j`-th listed register takes the byte at `a + j` where that is in bounds, and keeps its value where not. -/
theorem State.loadBlock_getV (rs : List Reg) (hn : rs.Nodup) (a : Nat) (s : State) (j : Nat) (hj : j < rs.length) :
    (State.loadBlock rs a s).1.getV rs[j] = if a + j < 4096 then s.readByte (a + j) else s.getV rs[j] := by
  induction rs generalizing a s j with
  | nil => simp at hj
  | cons q rs ih =>
    have hq : q ∉ rs := (List.nodup_cons.1 hn).1
    have hn' := (List.nodup_cons.1 hn).2
    simp only [State.loadBlock, State.memRead]
    split <;> rename_i h
    · split at h
      · have : ¬ (a + j < 4096) := by omega
        rw [if_neg this]
      · cases h
    · split at h
      · cases h
      · cases h
        cases j with
        | zero =>
          have : a < 4096 := by omega
          simp only [List.getElem_cons_zero, Nat.add_zero, if_pos this]
          rw [State.loadBlock_getV_other _ _ _ hq, State.getV_setV_self]
        | succ j =>
          simp only [List.getElem_cons_succ]
          have hj' : j < rs.length := by simpa using hj
          rw [ih hn' _ _ _ hj']
          have e : a + 1 + j = a + (j + 1) := by omega
          have hne : rs[j] ≠ q := fun e => hq (e ▸ List.getElem_mem hj')
          simp only [e, State.readByte_setV, State.getV_setV, if_neg hne]

/-- The rows of a sprite: all of them in bounds, else the fault (R220). -/
theorem State.readRows_eq (n a : Nat) (s : State) :
    State.readRows n a s =
      if n = 0 ∨ a + n ≤ 4096 then .ok ((List.range n).map fun k => s.readByte (a + k))
      else .error .outOfBoundsMemoryAccess := by
  induction n generalizing a with
  | zero => simp [State.readRows]
  | succ n ih =>
    simp only [State.readRows, State.memRead]
    by_cases h : a > 0xFFF
    · have : ¬ (n + 1 = 0 ∨ a + (n + 1) ≤ 4096) := by omega
      simp only [if_pos h, if_neg this]
    · simp only [if_neg h, ih]
      by_cases h2 : n = 0 ∨ a + 1 + n ≤ 4096
      · have : n + 1 = 0 ∨ a + (n + 1) ≤ 4096 := by omega
        rw [if_pos h2, if_pos this]
        simp [List.range_succ_eq_map, Function.comp_def, Nat.add_assoc, Nat.add_comm 1]
      · have : ¬ (n + 1 = 0 ∨ a + (n + 1) ≤ 4096) := by omega
        rw [if_neg h2, if_neg this]

/-! ### The program load -/

/-- The load writes memory only. -/
theorem State.loadImage_mem_only (bs : List Byte) (a : Nat) (s : State) :
    State.loadImage bs a s = { s with mem := (State.loadImage bs a s).mem } := by
  induction bs generalizing a s with
  | nil => rfl
  | cons b bs ih => simp only [State.loadImage]; rw [ih]; rfl

/-- What each byte reads as after the load (R283). -/
theorem State.loadImage_readByte (bs : List Byte) (a : Nat) (s : State) (c : Nat) :
    (State.loadImage bs a s).readByte c =
      if h : a ≤ c ∧ c < a + bs.length then bs[c - a]'(by omega) else s.readByte c := by
  induction bs generalizing a s with
  | nil =>
    have : ¬ (a ≤ c ∧ c < a + ([] : List Byte).length) := by simp
    rw [dif_neg this]; rfl
  | cons b bs ih =>
    simp only [State.loadImage]
    rw [ih, State.readByte_writeByte]
    by_cases hc : c = a
    · subst c
      have h1 : ¬ (a + 1 ≤ a ∧ a < a + 1 + bs.length) := by omega
      have h2 : a ≤ a ∧ a < a + (b :: bs).length := by simp
      rw [dif_neg h1, dif_pos h2]; simp
    · by_cases h1 : a + 1 ≤ c ∧ c < a + 1 + bs.length
      · have h2 : a ≤ c ∧ c < a + (b :: bs).length := by simp only [List.length_cons]; omega
        rw [dif_pos h1, dif_pos h2]
        have e : c - a = (c - (a + 1)) + 1 := by omega
        simp [e]
      · have h2 : ¬ (a ≤ c ∧ c < a + (b :: bs).length) := by simp only [List.length_cons]; omega
        rw [dif_neg h1, dif_neg h2, if_neg hc]

/-- The load keeps the canonical form where it stays in bounds. -/
theorem State.loadImage_wf (bs : List Byte) (a : Nat) (s : State) (hb : a + bs.length ≤ 4096)
    (h : Memory.wf (resetByte s.cfg) s.mem = true) :
    Memory.wf (resetByte s.cfg) (State.loadImage bs a s).mem = true := by
  induction bs generalizing a s with
  | nil => exact h
  | cons b bs ih =>
    simp only [List.length_cons] at hb
    exact ih (a + 1) (s.writeByte a b) (by omega) (Memory.wf_write _ b (by omega) h)

end Sys2Proof.Machine
end

