-- ==== Sys2Proof/Laws/Ops.lean ====
section
/-! SUPPORT. What the shared operations do: the end of an instruction, the stack, operand forms, frames. -/

namespace Sys2Proof.Machine

/-! ### The end of an instruction (R106) -/

theorem State.retire_next (s : State) : s.retire .next = { s with pc := s.pc + 2, outcome := none } := rfl

theorem State.retire_skip (s : State) : s.retire .skip = { s with pc := s.pc + 4, outcome := none } := rfl

theorem State.retire_jump (s : State) : s.retire .jump = { s with outcome := none } := rfl

theorem State.retire_halt (s : State) :
    s.retire .halt = { s with runState := .halted, postStopDt := true, postStopSt := true, outcome := none } := rfl

@[simp] theorem State.retire_outcome (s : State) (o : InstrOutcome) : (s.retire o).outcome = none := by cases o <;> rfl
@[simp] theorem State.retire_v (s : State) (o : InstrOutcome) : (s.retire o).v = s.v := by cases o <;> rfl
@[simp] theorem State.retire_i (s : State) (o : InstrOutcome) : (s.retire o).i = s.i := by cases o <;> rfl
@[simp] theorem State.retire_sp (s : State) (o : InstrOutcome) : (s.retire o).sp = s.sp := by cases o <;> rfl
@[simp] theorem State.retire_stack (s : State) (o : InstrOutcome) : (s.retire o).stack = s.stack := by cases o <;> rfl
@[simp] theorem State.retire_dt (s : State) (o : InstrOutcome) : (s.retire o).dt = s.dt := by cases o <;> rfl
@[simp] theorem State.retire_st (s : State) (o : InstrOutcome) : (s.retire o).st = s.st := by cases o <;> rfl
@[simp] theorem State.retire_faultKind (s : State) (o : InstrOutcome) : (s.retire o).faultKind = s.faultKind := by
  cases o <;> rfl
@[simp] theorem State.retire_stLatch (s : State) (o : InstrOutcome) : (s.retire o).stLatch = s.stLatch := by
  cases o <;> rfl
@[simp] theorem State.retire_mem (s : State) (o : InstrOutcome) : (s.retire o).mem = s.mem := by cases o <;> rfl
@[simp] theorem State.retire_cfg (s : State) (o : InstrOutcome) : (s.retire o).cfg = s.cfg := by cases o <;> rfl
@[simp] theorem State.retire_dispOut (s : State) (o : InstrOutcome) : (s.retire o).dispOut = s.dispOut := by
  cases o <;> rfl
@[simp] theorem State.retire_draws (s : State) (o : InstrOutcome) : (s.retire o).draws = s.draws := by cases o <;> rfl
@[simp] theorem State.retire_schedule (s : State) (o : InstrOutcome) : (s.retire o).schedule = s.schedule := by
  cases o <;> rfl
@[simp] theorem State.retire_getV (s : State) (o : InstrOutcome) (r : Reg) : (s.retire o).getV r = s.getV r := by
  cases o <;> rfl
@[simp] theorem State.retire_readByte (s : State) (o : InstrOutcome) (c : Nat) :
    (s.retire o).readByte c = s.readByte c := by cases o <;> rfl

/-- The next `PC` by outcome: the increment, skip and hold rows of R107. -/
@[simp] theorem State.retire_pc (s : State) (o : InstrOutcome) :
    (s.retire o).pc = match o with
      | .next => s.pc + 2
      | .skip => s.pc + 4
      | .jump => s.pc
      | .halt => s.pc := by cases o <;> rfl

/-- Only HALT moves the run state. -/
@[simp] theorem State.retire_runState (s : State) (o : InstrOutcome) :
    (s.retire o).runState = match o with
      | .halt => .halted
      | _ => s.runState := by cases o <;> rfl

@[simp] theorem State.retire_postStopDt (s : State) (o : InstrOutcome) :
    (s.retire o).postStopDt = match o with
      | .halt => true
      | _ => s.postStopDt := by cases o <;> rfl

@[simp] theorem State.retire_postStopSt (s : State) (o : InstrOutcome) :
    (s.retire o).postStopSt = match o with
      | .halt => true
      | _ => s.postStopSt := by cases o <;> rfl

/-! ### The return stack (R29, R30) -/

theorem State.push_of_lt {s : State} {w : Word} (h : s.sp.val < 16) :
    s.push w = .ok { s with stack := s.stack.set s.sp.val w h, sp := ⟨s.sp.val + 1, by omega⟩ } := by
  simp [State.push, h]

theorem State.push_full {s : State} {w : Word} (h : ¬ s.sp.val < 16) : s.push w = .error .stackOverflow := by
  simp [State.push, h]

theorem State.pop_of_ne {s : State} (h : s.sp.val ≠ 0) :
    s.pop = .ok (s.stack[s.sp.val - 1]'(by omega), { s with sp := ⟨s.sp.val - 1, by omega⟩ }) := by
  simp [State.pop, h]

theorem State.pop_empty {s : State} (h : s.sp.val = 0) : s.pop = .error .stackUnderflow := by
  simp [State.pop, h]

/-! ### Operand forms -/

@[simp] theorem addrWord_toNat (nnn : Addr12) : (addrWord nnn).toNat = nnn.toNat := by
  have := nnn.isLt
  simp [addrWord, BitVec.toNat_setWidth]; omega

@[simp] theorem byteWord_toNat (b : Byte) : (byteWord b).toNat = b.toNat := by
  have := b.isLt
  simp [byteWord, BitVec.toNat_setWidth]; omega

@[simp] theorem regsUpTo_length (x : Reg) : (regsUpTo x).length = x.val + 1 := by
  revert x; decide

theorem regsUpTo_nodup (x : Reg) : (regsUpTo x).Nodup := by revert x; decide

theorem mem_regsUpTo (x r : Reg) : r ∈ regsUpTo x ↔ r ≤ x := by revert x r; decide

theorem regsUpTo_getElem (x k : Reg) (h : k ≤ x) : (regsUpTo x)[k.val]? = some k := by
  revert x k; decide

/-- The lowest pressed key, or none where `keys` is 0 (R226). -/
theorem lowestKey_eq_none (keys : Word) : lowestKey keys = none ↔ ∀ k < 16, keys.getLsbD k = false := by
  simp only [lowestKey, List.find?_eq_none, List.mem_range, Bool.not_eq_true]

/-! ### Finishing a block transfer -/

theorem finishBlock_none (s : State) : finishBlock (s, none) = .next (s.retire .next) := rfl

theorem finishBlock_some (s : State) (k : FaultKind) : finishBlock (s, some k) = .next (s.takeFault k) := rfl

/-! ### Parts -/

@[simp] theorem mem_regs (c : Reg → Bool) (p : Part) : p ∈ Part.regs c ↔ ∃ r, c r = true ∧ p = .v r := by
  simp only [Part.regs, List.mem_map, List.mem_filter, List.mem_finRange, true_and]
  exact ⟨fun ⟨r, h, e⟩ => ⟨r, h, e.symm⟩, fun ⟨r, h, e⟩ => ⟨r, h, e.symm⟩⟩

@[simp] theorem mem_bytes (a n : Nat) (p : Part) : p ∈ Part.bytes a n ↔ ∃ k, k < n ∧ p = .byte (a + k) := by
  simp only [Part.bytes, List.mem_map, List.mem_range]
  exact ⟨fun ⟨k, h, e⟩ => ⟨k, h, e.symm⟩, fun ⟨k, h, e⟩ => ⟨k, h, e.symm⟩⟩

/-- Taking a fault records it and writes nothing else (R12, R243). -/
theorem takesFault_takeFault (k : FaultKind) (s : State) : TakesFault k s (s.takeFault k) := by
  refine ⟨⟨rfl, rfl⟩, ?_⟩
  intro p hp
  cases p <;> first | rfl | simp [Part.fault] at hp

end Sys2Proof.Machine
end

