-- ==== Sys2Proof/Laws/Exec.lean ====
section
/-! SUPPORT. What an instruction can do, said once: `exec_cases` sorts every next state of `exec` by the parts of State
it can have written. -/

namespace Sys2Proof.Machine

/-- The next states of `exec`, grouped by shape; values that no frame needs are left open. -/
inductive ExecCase (s : State) : Instr → State → Prop
  | cls : ExecCase s .cls ((s.emit .clear).retire .next)
  | retEmpty : s.sp.val = 0 → ExecCase s .ret (s.takeFault .stackUnderflow)
  | ret (k : Reg) (h : s.sp.val = k.val + 1) :
      ExecCase s .ret ((State.setPc s.stack[k] { s with sp := ⟨k.val, by omega⟩ }).retire .jump)
  | halt : ExecCase s .halt (s.retire .halt)
  | jp (nnn : Addr12) : ExecCase s (.jp nnn) ((s.setPc (addrWord nnn)).retire .jump)
  | jpV0 (nnn : Addr12) : ExecCase s (.jpV0 nnn) ((s.setPc (addrWord nnn + byteWord (s.getV 0))).retire .jump)
  | callFull (nnn : Addr12) : s.sp.val = 16 → ExecCase s (.call nnn) (s.takeFault .stackOverflow)
  | call (nnn : Addr12) (h : s.sp.val < 16) :
      ExecCase s (.call nnn)
        ((State.setPc (addrWord nnn)
          { s with stack := s.stack.set s.sp.val (s.pc + 2) h, sp := ⟨s.sp.val + 1, by omega⟩ }).retire .jump)
  | skip (i : Instr) (c : Bool)
      (h : ∃ x kk y, i = .seVxKk x kk ∨ i = .sneVxKk x kk ∨ i = .seVxVy x y ∨ i = .sneVxVy x y) :
      ExecCase s i (s.retire (if c then .skip else .next))
  | result (i : Instr) (x : Reg) (b : Byte)
      (h : ∃ kk y, i = .ldVxKk x kk ∨ i = .addVxKk x kk ∨ i = .ldVxVy x y ∨ i = .orVxVy x y ∨ i = .andVxVy x y ∨
        i = .xorVxVy x y ∨ i = .ldVxDt x) :
      ExecCase s i ((s.setV x b).retire .next)
  | rnd (x : Reg) (kk b : Byte) : ExecCase s (.rnd x kk) ((s.dropRnd.setV x b).retire .next)
  | resultFlag (i : Instr) (x : Reg) (b flag : Byte)
      (h : ∃ y, i = .addVxVy x y ∨ i = .sub x y ∨ i = .shr x y ∨ i = .subn x y ∨ i = .shl x y) :
      ExecCase s i (((s.setV x b).setV 15 flag).retire .next)
  | address (i : Instr) (w : Word) (h : ∃ nnn x, i = .ldI nnn ∨ i = .addIVx x ∨ i = .ldFVx x) :
      ExecCase s i ((s.setI w).retire .next)
  | ldDtVx (x : Reg) : ExecCase s (.ldDtVx x) ((s.setDt (s.getV x)).retire .next)
  | ldStVx (x : Reg) : ExecCase s (.ldStVx x) ((s.setSt (s.getV x)).retire .next)
  | drw (x y : Reg) (n : Nibble) (q : DispRequest) (flag : Byte) : s.cfg.displayPresent = true →
      ExecCase s (.drw x y n) (((s.emit q).dropCollision.setV 15 flag).retire .next)
  | drwBounds (x y : Reg) (n : Nibble) :
      s.cfg.displayPresent = true → n.toNat ≠ 0 → s.blockBase + n.toNat > 4096 →
      ExecCase s (.drw x y n) (s.takeFault .outOfBoundsMemoryAccess)
  | drwAbsent (x y : Reg) (n : Nibble) : s.cfg.displayPresent = false →
      ExecCase s (.drw x y n) (s.takeFault .unimplementedOpcode)
  | keySkip (i : Instr) (c : Bool) (h : ∃ x, i = .skp x ∨ i = .sknp x) : s.cfg.keypadPresent = true →
      ExecCase s i (s.dropKeys.retire (if c then .skip else .next))
  | keyWait (x : Reg) : s.cfg.keypadPresent = true → ExecCase s (.ldVxK x) (s.dropKeys.retire .jump)
  | keyTaken (x : Reg) (b : Byte) : s.cfg.keypadPresent = true →
      ExecCase s (.ldVxK x) ((s.dropKeys.setV x b).retire .next)
  | keyAbsent (i : Instr) (h : ∃ x, i = .skp x ∨ i = .sknp x ∨ i = .ldVxK x) : s.cfg.keypadPresent = false →
      ExecCase s i (s.takeFault .unimplementedOpcode)
  | bcdAbsent (x : Reg) : s.cfg.bcdImplemented = false → ExecCase s (.ldBVx x) (s.takeFault .unimplementedOpcode)
  | store (i : Instr) (bs : List Byte) (h : ∃ x, (i = .ldBVx x ∧ s.cfg.bcdImplemented = true) ∨ i = .ldMemVx x) :
      ExecCase s i ((State.storeBlock bs s.blockBase s).1.retire .next)
  | storeBounds (i : Instr) (bs : List Byte)
      (h : ∃ x, (i = .ldBVx x ∧ s.cfg.bcdImplemented = true ∧ bs.length = 3) ∨
        (i = .ldMemVx x ∧ bs.length = x.val + 1)) :
      s.blockBase + bs.length > 4096 →
      ExecCase s i ((State.storeBlock bs s.blockBase s).1.takeFault .outOfBoundsMemoryAccess)
  | load (x : Reg) : ExecCase s (.ldVxMem x) ((State.loadBlock (regsUpTo x) s.blockBase s).1.retire .next)
  | loadBounds (x : Reg) : s.blockBase + x.val + 1 > 4096 →
      ExecCase s (.ldVxMem x)
        ((State.loadBlock (regsUpTo x) s.blockBase s).1.takeFault .outOfBoundsMemoryAccess)

/-- The end of a block transfer, by what it reported. -/
theorem finishBlock_cases {r : State × Option FaultKind} {t : State} (h : finishBlock r = .next t) :
    (r.2 = none ∧ t = r.1.retire .next) ∨ ∃ k, r.2 = some k ∧ t = r.1.takeFault k := by
  obtain ⟨u, k⟩ := r
  cases k with
  | none => injection h with h; exact .inl ⟨rfl, h.symm⟩
  | some k => injection h with h; exact .inr ⟨k, rfl, h.symm⟩

theorem storeBlock_finish {bs : List Byte} {a : Nat} {s t : State} (h : finishBlock (State.storeBlock bs a s) = .next t) :
    t = (State.storeBlock bs a s).1.retire .next ∨
      (a + bs.length > 4096 ∧ t = (State.storeBlock bs a s).1.takeFault .outOfBoundsMemoryAccess) := by
  obtain ⟨-, rfl⟩ | ⟨k, hk, rfl⟩ := finishBlock_cases h
  · exact .inl rfl
  · rw [State.storeBlock_fault] at hk
    split at hk
    · cases hk
    · injection hk with hk
      subst hk
      exact .inr ⟨by omega, rfl⟩

theorem loadBlock_finish {rs : List Reg} {a : Nat} {s t : State} (h : finishBlock (State.loadBlock rs a s) = .next t) :
    t = (State.loadBlock rs a s).1.retire .next ∨
      (a + rs.length > 4096 ∧ t = (State.loadBlock rs a s).1.takeFault .outOfBoundsMemoryAccess) := by
  obtain ⟨-, rfl⟩ | ⟨k, hk, rfl⟩ := finishBlock_cases h
  · exact .inl rfl
  · rw [State.loadBlock_fault] at hk
    split at hk
    · cases hk
    · injection hk with hk
      subst hk
      exact .inr ⟨by omega, rfl⟩

theorem execRet_cases {s t : State} (h : execRet s = .next t) : ExecCase s .ret t := by
  by_cases hz : s.sp.val = 0
  · simp only [execRet, State.pop_empty hz] at h
    injection h with h
    exact h ▸ .retEmpty hz
  · simp only [execRet, State.pop_of_ne hz] at h
    injection h with h
    exact h ▸ .ret ⟨s.sp.val - 1, by omega⟩ (by simp only; omega)

theorem execCall_cases {nnn : Addr12} {s t : State} (h : execCall nnn s = .next t) : ExecCase s (.call nnn) t := by
  by_cases hz : s.sp.val < 16
  · simp only [execCall, State.push_of_lt hz] at h
    injection h with h
    exact h ▸ .call nnn hz
  · simp only [execCall, State.push_full hz] at h
    injection h with h
    exact h ▸ .callFull nnn (by omega)

theorem execDrw_cases {x y : Reg} {n : Nibble} {s t : State} (h : execDrw x y n s = .next t) :
    ExecCase s (.drw x y n) t := by
  cases hd : s.cfg.displayPresent with
  | false =>
    simp only [execDrw, hd] at h
    injection h with h
    exact h ▸ .drwAbsent x y n hd
  | true =>
    simp only [execDrw, hd, State.readRows_eq] at h
    by_cases hb : n.toNat = 0 ∨ s.blockBase + n.toNat ≤ 4096
    · simp only [if_pos hb] at h
      injection h with h
      exact h ▸ .drw x y n _ _ hd
    · simp only [if_neg hb] at h
      injection h with h
      exact h ▸ .drwBounds x y n hd (by omega) (by omega)

theorem execLdVxK_cases {x : Reg} {s t : State} (h : execLdVxK x s = .next t) : ExecCase s (.ldVxK x) t := by
  cases hd : s.cfg.keypadPresent with
  | false =>
    simp only [execLdVxK, hd] at h
    injection h with h
    exact h ▸ .keyAbsent _ ⟨x, by simp⟩ hd
  | true =>
    simp only [execLdVxK, hd] at h
    cases hl : lowestKey s.keysDraw with
    | none =>
      simp only [hl] at h
      injection h with h
      exact h ▸ .keyWait x hd
    | some k =>
      simp only [hl] at h
      injection h with h
      exact h ▸ .keyTaken x _ hd

theorem execLdBVx_cases {x : Reg} {s t : State} (h : execLdBVx x s = .next t) : ExecCase s (.ldBVx x) t := by
  cases hd : s.cfg.bcdImplemented with
  | false =>
    simp only [execLdBVx, hd] at h
    injection h with h
    exact h ▸ .bcdAbsent x hd
  | true =>
    simp only [execLdBVx, hd, if_true] at h
    obtain rfl | ⟨hb, rfl⟩ := storeBlock_finish h
    · exact .store _ _ ⟨x, .inl ⟨rfl, hd⟩⟩
    · exact .storeBounds _ _ ⟨x, .inl ⟨rfl, hd, rfl⟩⟩ hb

theorem execLdMemVx_cases {x : Reg} {s t : State} (h : execLdMemVx x s = .next t) : ExecCase s (.ldMemVx x) t := by
  obtain rfl | ⟨hb, rfl⟩ := storeBlock_finish h
  · exact .store _ _ ⟨x, .inr rfl⟩
  · exact .storeBounds _ _ ⟨x, .inr ⟨rfl, by simp⟩⟩ hb

theorem execLdVxMem_cases {x : Reg} {s t : State} (h : execLdVxMem x s = .next t) : ExecCase s (.ldVxMem x) t := by
  obtain rfl | ⟨hb, rfl⟩ := loadBlock_finish h
  · exact .load x
  · exact .loadBounds x (by simpa [Nat.add_assoc] using hb)

/-- Every next state of `exec` is one of the cases. -/
theorem exec_cases {i : Instr} {s t : State} (h : exec i s = .next t) : ExecCase s i t := by
  cases i with
  | ret => exact execRet_cases h
  | call nnn => exact execCall_cases h
  | drw x y n => exact execDrw_cases h
  | ldVxK x => exact execLdVxK_cases h
  | ldBVx x => exact execLdBVx_cases h
  | ldMemVx x => exact execLdMemVx_cases h
  | ldVxMem x => exact execLdVxMem_cases h
  | cls => cases h; exact .cls
  | halt => cases h; exact .halt
  | jp nnn => cases h; exact .jp nnn
  | jpV0 nnn => cases h; exact .jpV0 nnn
  | seVxKk x kk => cases h; exact .skip _ _ ⟨x, kk, 0, by simp⟩
  | sneVxKk x kk => cases h; exact .skip _ _ ⟨x, kk, 0, by simp⟩
  | seVxVy x y => cases h; exact .skip _ _ ⟨x, 0, y, by simp⟩
  | sneVxVy x y => cases h; exact .skip _ _ ⟨x, 0, y, by simp⟩
  | ldVxKk x kk => cases h; exact .result _ x _ ⟨kk, 0, by simp⟩
  | addVxKk x kk => cases h; exact .result _ x _ ⟨kk, 0, by simp⟩
  | ldVxVy x y => cases h; exact .result _ x _ ⟨0, y, by simp⟩
  | orVxVy x y => cases h; exact .result _ x _ ⟨0, y, by simp⟩
  | andVxVy x y => cases h; exact .result _ x _ ⟨0, y, by simp⟩
  | xorVxVy x y => cases h; exact .result _ x _ ⟨0, y, by simp⟩
  | ldVxDt x => cases h; exact .result _ x _ ⟨0, 0, by simp⟩
  | rnd x kk => cases h; exact .rnd x kk _
  | addVxVy x y => cases h; exact .resultFlag _ x _ _ ⟨y, by simp⟩
  | sub x y => cases h; exact .resultFlag _ x _ _ ⟨y, by simp⟩
  | shr x y => cases h; exact .resultFlag _ x _ _ ⟨y, by simp⟩
  | subn x y => cases h; exact .resultFlag _ x _ _ ⟨y, by simp⟩
  | shl x y => cases h; exact .resultFlag _ x _ _ ⟨y, by simp⟩
  | ldI nnn => cases h; exact .address _ _ ⟨nnn, 0, by simp⟩
  | addIVx x => cases h; exact .address _ _ ⟨0, x, by simp⟩
  | ldFVx x => cases h; exact .address _ _ ⟨0, x, by simp⟩
  | ldDtVx x => cases h; exact .ldDtVx x
  | ldStVx x => cases h; exact .ldStVx x
  | skp x =>
    cases hd : s.cfg.keypadPresent <;> simp only [exec, execSkp, hd] at h
    · injection h with h
      exact h ▸ .keyAbsent _ ⟨x, by simp⟩ hd
    · injection h with h
      exact h ▸ .keySkip _ _ ⟨x, by simp⟩ hd
  | sknp x =>
    cases hd : s.cfg.keypadPresent <;> simp only [exec, execSknp, hd] at h
    · injection h with h
      exact h ▸ .keyAbsent _ ⟨x, by simp⟩ hd
    · injection h with h
      exact h ▸ .keySkip _ _ ⟨x, by simp⟩ hd

end Sys2Proof.Machine
end

