-- ==== Sys2Proof/Laws/PerInstr.lean ====
section
/-! SUPPORT. Facts of each instruction as syntax, constructor by constructor: its operands fit their fields, and its
encoding has the fixed bits of its row of spec/opcode_table.json. -/

namespace Sys2Proof

/-- The match value of an instruction's row in spec/opcode_table.json. -/
def rowMatch : Instr → Nat
  | .cls => 0x00E0
  | .ret => 0x00EE
  | .halt => 0x00FD
  | .jp _ => 0x1000
  | .call _ => 0x2000
  | .seVxKk _ _ => 0x3000
  | .sneVxKk _ _ => 0x4000
  | .seVxVy _ _ => 0x5000
  | .ldVxKk _ _ => 0x6000
  | .addVxKk _ _ => 0x7000
  | .ldVxVy _ _ => 0x8000
  | .orVxVy _ _ => 0x8001
  | .andVxVy _ _ => 0x8002
  | .xorVxVy _ _ => 0x8003
  | .addVxVy _ _ => 0x8004
  | .sub _ _ => 0x8005
  | .shr _ _ => 0x8006
  | .subn _ _ => 0x8007
  | .shl _ _ => 0x800E
  | .sneVxVy _ _ => 0x9000
  | .ldI _ => 0xA000
  | .jpV0 _ => 0xB000
  | .rnd _ _ => 0xC000
  | .drw _ _ _ => 0xD000
  | .skp _ => 0xE09E
  | .sknp _ => 0xE0A1
  | .ldVxDt _ => 0xF007
  | .ldVxK _ => 0xF00A
  | .ldDtVx _ => 0xF015
  | .ldStVx _ => 0xF018
  | .addIVx _ => 0xF01E
  | .ldFVx _ => 0xF029
  | .ldBVx _ => 0xF033
  | .ldMemVx _ => 0xF055
  | .ldVxMem _ => 0xF065

/-- The value that the fixed bits of a row select: its mask applied to a word's number, as the table lays the bits out. -/
def fixedBits : Instr → Nat → Nat
  | .cls, w => w
  | .ret, w => w
  | .halt, w => w
  | .jp _, w => w / 0x1000 * 0x1000
  | .call _, w => w / 0x1000 * 0x1000
  | .seVxKk _ _, w => w / 0x1000 * 0x1000
  | .sneVxKk _ _, w => w / 0x1000 * 0x1000
  | .seVxVy _ _, w => w / 0x1000 * 0x1000 + w % 0x10
  | .ldVxKk _ _, w => w / 0x1000 * 0x1000
  | .addVxKk _ _, w => w / 0x1000 * 0x1000
  | .ldVxVy _ _, w => w / 0x1000 * 0x1000 + w % 0x10
  | .orVxVy _ _, w => w / 0x1000 * 0x1000 + w % 0x10
  | .andVxVy _ _, w => w / 0x1000 * 0x1000 + w % 0x10
  | .xorVxVy _ _, w => w / 0x1000 * 0x1000 + w % 0x10
  | .addVxVy _ _, w => w / 0x1000 * 0x1000 + w % 0x10
  | .sub _ _, w => w / 0x1000 * 0x1000 + w % 0x10
  | .shr _ _, w => w / 0x1000 * 0x1000 + w % 0x10
  | .subn _ _, w => w / 0x1000 * 0x1000 + w % 0x10
  | .shl _ _, w => w / 0x1000 * 0x1000 + w % 0x10
  | .sneVxVy _ _, w => w / 0x1000 * 0x1000 + w % 0x10
  | .ldI _, w => w / 0x1000 * 0x1000
  | .jpV0 _, w => w / 0x1000 * 0x1000
  | .rnd _ _, w => w / 0x1000 * 0x1000
  | .drw _ _ _, w => w / 0x1000 * 0x1000
  | .skp _, w => w / 0x1000 * 0x1000 + w % 0x100
  | .sknp _, w => w / 0x1000 * 0x1000 + w % 0x100
  | .ldVxDt _, w => w / 0x1000 * 0x1000 + w % 0x100
  | .ldVxK _, w => w / 0x1000 * 0x1000 + w % 0x100
  | .ldDtVx _, w => w / 0x1000 * 0x1000 + w % 0x100
  | .ldStVx _, w => w / 0x1000 * 0x1000 + w % 0x100
  | .addIVx _, w => w / 0x1000 * 0x1000 + w % 0x100
  | .ldFVx _, w => w / 0x1000 * 0x1000 + w % 0x100
  | .ldBVx _, w => w / 0x1000 * 0x1000 + w % 0x100
  | .ldMemVx _, w => w / 0x1000 * 0x1000 + w % 0x100
  | .ldVxMem _, w => w / 0x1000 * 0x1000 + w % 0x100

namespace Laws

theorem FieldsFit.ofReg (x : Reg) : (OperandField.ofReg x).fits = true :=
  decide_eq_true x.isLt

theorem FieldsFit.ofByte (b : Byte) : (OperandField.ofByte b).fits = true :=
  decide_eq_true b.isLt

theorem FieldsFit.ofAddr (a : Addr12) : (OperandField.ofAddr a).fits = true :=
  decide_eq_true a.isLt

theorem FieldsFit.ofNibble (n : Nibble) : (OperandField.ofNibble n).fits = true :=
  decide_eq_true n.isLt

/-- The instruction is well-formed. -/
def FieldsFit.Statement (i : Instr) : Prop := i.wellFormed = true

/-- The encoding has the fixed bits of the instruction's table row. -/
def FixedBits.Statement (i : Instr) : Prop := fixedBits i (encode i).toNat = rowMatch i

theorem FixedBits.nnn (f : Nibble) (nnn : Addr12) :
    (encodeNNN f nnn).toNat / 0x1000 * 0x1000 = f.toNat * 0x1000 := by
  have := f.isLt
  have := nnn.isLt
  simp only [encodeNNN, BitVec.toNat_ofNat]; omega

theorem FixedBits.xkk (f : Nibble) (x : Reg) (kk : Byte) :
    (encodeXKK f x kk).toNat / 0x1000 * 0x1000 = f.toNat * 0x1000 := by
  have := f.isLt
  have := x.isLt
  have := kk.isLt
  simp only [encodeXKK, BitVec.toNat_ofNat]; omega

theorem FixedBits.xsub (f : Nibble) (x : Reg) (kk : Byte) :
    (encodeXKK f x kk).toNat / 0x1000 * 0x1000 + (encodeXKK f x kk).toNat % 0x100 = f.toNat * 0x1000 + kk.toNat := by
  have := f.isLt
  have := x.isLt
  have := kk.isLt
  simp only [encodeXKK, BitVec.toNat_ofNat]; omega

theorem FixedBits.xyn (f : Nibble) (x y : Reg) (n : Nibble) :
    (encodeXYN f x y n).toNat / 0x1000 * 0x1000 = f.toNat * 0x1000 := by
  have := f.isLt
  have := x.isLt
  have := y.isLt
  have := n.isLt
  simp only [encodeXYN, BitVec.toNat_ofNat]; omega

theorem FixedBits.xysel (f : Nibble) (x y : Reg) (n : Nibble) :
    (encodeXYN f x y n).toNat / 0x1000 * 0x1000 + (encodeXYN f x y n).toNat % 0x10 = f.toNat * 0x1000 + n.toNat := by
  have := f.isLt
  have := x.isLt
  have := y.isLt
  have := n.isLt
  simp only [encodeXYN, BitVec.toNat_ofNat]; omega

theorem FieldsFit.cls : FieldsFit.Statement .cls := by
  simp [FieldsFit.Statement, Instr.wellFormed, Instr.operandFields]

theorem FieldsFit.ret : FieldsFit.Statement .ret := by
  simp [FieldsFit.Statement, Instr.wellFormed, Instr.operandFields]

theorem FieldsFit.halt : FieldsFit.Statement .halt := by
  simp [FieldsFit.Statement, Instr.wellFormed, Instr.operandFields]

theorem FieldsFit.jp (nnn : Addr12) : FieldsFit.Statement (.jp nnn) := by
  simp [FieldsFit.Statement, Instr.wellFormed, Instr.operandFields, FieldsFit.ofAddr]

theorem FieldsFit.call (nnn : Addr12) : FieldsFit.Statement (.call nnn) := by
  simp [FieldsFit.Statement, Instr.wellFormed, Instr.operandFields, FieldsFit.ofAddr]

theorem FieldsFit.seVxKk (x : Reg) (kk : Byte) : FieldsFit.Statement (.seVxKk x kk) := by
  simp [FieldsFit.Statement, Instr.wellFormed, Instr.operandFields, FieldsFit.ofReg, FieldsFit.ofByte]

theorem FieldsFit.sneVxKk (x : Reg) (kk : Byte) : FieldsFit.Statement (.sneVxKk x kk) := by
  simp [FieldsFit.Statement, Instr.wellFormed, Instr.operandFields, FieldsFit.ofReg, FieldsFit.ofByte]

theorem FieldsFit.seVxVy (x : Reg) (y : Reg) : FieldsFit.Statement (.seVxVy x y) := by
  simp [FieldsFit.Statement, Instr.wellFormed, Instr.operandFields, FieldsFit.ofReg]

theorem FieldsFit.ldVxKk (x : Reg) (kk : Byte) : FieldsFit.Statement (.ldVxKk x kk) := by
  simp [FieldsFit.Statement, Instr.wellFormed, Instr.operandFields, FieldsFit.ofReg, FieldsFit.ofByte]

theorem FieldsFit.addVxKk (x : Reg) (kk : Byte) : FieldsFit.Statement (.addVxKk x kk) := by
  simp [FieldsFit.Statement, Instr.wellFormed, Instr.operandFields, FieldsFit.ofReg, FieldsFit.ofByte]

theorem FieldsFit.ldVxVy (x : Reg) (y : Reg) : FieldsFit.Statement (.ldVxVy x y) := by
  simp [FieldsFit.Statement, Instr.wellFormed, Instr.operandFields, FieldsFit.ofReg]

theorem FieldsFit.orVxVy (x : Reg) (y : Reg) : FieldsFit.Statement (.orVxVy x y) := by
  simp [FieldsFit.Statement, Instr.wellFormed, Instr.operandFields, FieldsFit.ofReg]

theorem FieldsFit.andVxVy (x : Reg) (y : Reg) : FieldsFit.Statement (.andVxVy x y) := by
  simp [FieldsFit.Statement, Instr.wellFormed, Instr.operandFields, FieldsFit.ofReg]

theorem FieldsFit.xorVxVy (x : Reg) (y : Reg) : FieldsFit.Statement (.xorVxVy x y) := by
  simp [FieldsFit.Statement, Instr.wellFormed, Instr.operandFields, FieldsFit.ofReg]

theorem FieldsFit.addVxVy (x : Reg) (y : Reg) : FieldsFit.Statement (.addVxVy x y) := by
  simp [FieldsFit.Statement, Instr.wellFormed, Instr.operandFields, FieldsFit.ofReg]

theorem FieldsFit.sub (x : Reg) (y : Reg) : FieldsFit.Statement (.sub x y) := by
  simp [FieldsFit.Statement, Instr.wellFormed, Instr.operandFields, FieldsFit.ofReg]

theorem FieldsFit.shr (x : Reg) (y : Reg) : FieldsFit.Statement (.shr x y) := by
  simp [FieldsFit.Statement, Instr.wellFormed, Instr.operandFields, FieldsFit.ofReg]

theorem FieldsFit.subn (x : Reg) (y : Reg) : FieldsFit.Statement (.subn x y) := by
  simp [FieldsFit.Statement, Instr.wellFormed, Instr.operandFields, FieldsFit.ofReg]

theorem FieldsFit.shl (x : Reg) (y : Reg) : FieldsFit.Statement (.shl x y) := by
  simp [FieldsFit.Statement, Instr.wellFormed, Instr.operandFields, FieldsFit.ofReg]

theorem FieldsFit.sneVxVy (x : Reg) (y : Reg) : FieldsFit.Statement (.sneVxVy x y) := by
  simp [FieldsFit.Statement, Instr.wellFormed, Instr.operandFields, FieldsFit.ofReg]

theorem FieldsFit.ldI (nnn : Addr12) : FieldsFit.Statement (.ldI nnn) := by
  simp [FieldsFit.Statement, Instr.wellFormed, Instr.operandFields, FieldsFit.ofAddr]

theorem FieldsFit.jpV0 (nnn : Addr12) : FieldsFit.Statement (.jpV0 nnn) := by
  simp [FieldsFit.Statement, Instr.wellFormed, Instr.operandFields, FieldsFit.ofAddr]

theorem FieldsFit.rnd (x : Reg) (kk : Byte) : FieldsFit.Statement (.rnd x kk) := by
  simp [FieldsFit.Statement, Instr.wellFormed, Instr.operandFields, FieldsFit.ofReg, FieldsFit.ofByte]

theorem FieldsFit.drw (x : Reg) (y : Reg) (n : Nibble) : FieldsFit.Statement (.drw x y n) := by
  simp [FieldsFit.Statement, Instr.wellFormed, Instr.operandFields, FieldsFit.ofReg, FieldsFit.ofNibble]

theorem FieldsFit.skp (x : Reg) : FieldsFit.Statement (.skp x) := by
  simp [FieldsFit.Statement, Instr.wellFormed, Instr.operandFields, FieldsFit.ofReg]

theorem FieldsFit.sknp (x : Reg) : FieldsFit.Statement (.sknp x) := by
  simp [FieldsFit.Statement, Instr.wellFormed, Instr.operandFields, FieldsFit.ofReg]

theorem FieldsFit.ldVxDt (x : Reg) : FieldsFit.Statement (.ldVxDt x) := by
  simp [FieldsFit.Statement, Instr.wellFormed, Instr.operandFields, FieldsFit.ofReg]

theorem FieldsFit.ldVxK (x : Reg) : FieldsFit.Statement (.ldVxK x) := by
  simp [FieldsFit.Statement, Instr.wellFormed, Instr.operandFields, FieldsFit.ofReg]

theorem FieldsFit.ldDtVx (x : Reg) : FieldsFit.Statement (.ldDtVx x) := by
  simp [FieldsFit.Statement, Instr.wellFormed, Instr.operandFields, FieldsFit.ofReg]

theorem FieldsFit.ldStVx (x : Reg) : FieldsFit.Statement (.ldStVx x) := by
  simp [FieldsFit.Statement, Instr.wellFormed, Instr.operandFields, FieldsFit.ofReg]

theorem FieldsFit.addIVx (x : Reg) : FieldsFit.Statement (.addIVx x) := by
  simp [FieldsFit.Statement, Instr.wellFormed, Instr.operandFields, FieldsFit.ofReg]

theorem FieldsFit.ldFVx (x : Reg) : FieldsFit.Statement (.ldFVx x) := by
  simp [FieldsFit.Statement, Instr.wellFormed, Instr.operandFields, FieldsFit.ofReg]

theorem FieldsFit.ldBVx (x : Reg) : FieldsFit.Statement (.ldBVx x) := by
  simp [FieldsFit.Statement, Instr.wellFormed, Instr.operandFields, FieldsFit.ofReg]

theorem FieldsFit.ldMemVx (x : Reg) : FieldsFit.Statement (.ldMemVx x) := by
  simp [FieldsFit.Statement, Instr.wellFormed, Instr.operandFields, FieldsFit.ofReg]

theorem FieldsFit.ldVxMem (x : Reg) : FieldsFit.Statement (.ldVxMem x) := by
  simp [FieldsFit.Statement, Instr.wellFormed, Instr.operandFields, FieldsFit.ofReg]

theorem FixedBits.cls : FixedBits.Statement .cls := rfl

theorem FixedBits.ret : FixedBits.Statement .ret := rfl

theorem FixedBits.halt : FixedBits.Statement .halt := rfl

theorem FixedBits.jp (nnn : Addr12) : FixedBits.Statement (.jp nnn) := FixedBits.nnn 0x1 nnn

theorem FixedBits.call (nnn : Addr12) : FixedBits.Statement (.call nnn) := FixedBits.nnn 0x2 nnn

theorem FixedBits.seVxKk (x : Reg) (kk : Byte) : FixedBits.Statement (.seVxKk x kk) := FixedBits.xkk 0x3 x kk

theorem FixedBits.sneVxKk (x : Reg) (kk : Byte) : FixedBits.Statement (.sneVxKk x kk) := FixedBits.xkk 0x4 x kk

theorem FixedBits.seVxVy (x : Reg) (y : Reg) : FixedBits.Statement (.seVxVy x y) := FixedBits.xysel 0x5 x y 0x0

theorem FixedBits.ldVxKk (x : Reg) (kk : Byte) : FixedBits.Statement (.ldVxKk x kk) := FixedBits.xkk 0x6 x kk

theorem FixedBits.addVxKk (x : Reg) (kk : Byte) : FixedBits.Statement (.addVxKk x kk) := FixedBits.xkk 0x7 x kk

theorem FixedBits.ldVxVy (x : Reg) (y : Reg) : FixedBits.Statement (.ldVxVy x y) := FixedBits.xysel 0x8 x y 0x0

theorem FixedBits.orVxVy (x : Reg) (y : Reg) : FixedBits.Statement (.orVxVy x y) := FixedBits.xysel 0x8 x y 0x1

theorem FixedBits.andVxVy (x : Reg) (y : Reg) : FixedBits.Statement (.andVxVy x y) := FixedBits.xysel 0x8 x y 0x2

theorem FixedBits.xorVxVy (x : Reg) (y : Reg) : FixedBits.Statement (.xorVxVy x y) := FixedBits.xysel 0x8 x y 0x3

theorem FixedBits.addVxVy (x : Reg) (y : Reg) : FixedBits.Statement (.addVxVy x y) := FixedBits.xysel 0x8 x y 0x4

theorem FixedBits.sub (x : Reg) (y : Reg) : FixedBits.Statement (.sub x y) := FixedBits.xysel 0x8 x y 0x5

theorem FixedBits.shr (x : Reg) (y : Reg) : FixedBits.Statement (.shr x y) := FixedBits.xysel 0x8 x y 0x6

theorem FixedBits.subn (x : Reg) (y : Reg) : FixedBits.Statement (.subn x y) := FixedBits.xysel 0x8 x y 0x7

theorem FixedBits.shl (x : Reg) (y : Reg) : FixedBits.Statement (.shl x y) := FixedBits.xysel 0x8 x y 0xe

theorem FixedBits.sneVxVy (x : Reg) (y : Reg) : FixedBits.Statement (.sneVxVy x y) := FixedBits.xysel 0x9 x y 0x0

theorem FixedBits.ldI (nnn : Addr12) : FixedBits.Statement (.ldI nnn) := FixedBits.nnn 0xa nnn

theorem FixedBits.jpV0 (nnn : Addr12) : FixedBits.Statement (.jpV0 nnn) := FixedBits.nnn 0xb nnn

theorem FixedBits.rnd (x : Reg) (kk : Byte) : FixedBits.Statement (.rnd x kk) := FixedBits.xkk 0xc x kk

theorem FixedBits.drw (x : Reg) (y : Reg) (n : Nibble) : FixedBits.Statement (.drw x y n) := FixedBits.xyn 0xd x y n

theorem FixedBits.skp (x : Reg) : FixedBits.Statement (.skp x) := FixedBits.xsub 0xe x 0x9e

theorem FixedBits.sknp (x : Reg) : FixedBits.Statement (.sknp x) := FixedBits.xsub 0xe x 0xa1

theorem FixedBits.ldVxDt (x : Reg) : FixedBits.Statement (.ldVxDt x) := FixedBits.xsub 0xf x 0x7

theorem FixedBits.ldVxK (x : Reg) : FixedBits.Statement (.ldVxK x) := FixedBits.xsub 0xf x 0xa

theorem FixedBits.ldDtVx (x : Reg) : FixedBits.Statement (.ldDtVx x) := FixedBits.xsub 0xf x 0x15

theorem FixedBits.ldStVx (x : Reg) : FixedBits.Statement (.ldStVx x) := FixedBits.xsub 0xf x 0x18

theorem FixedBits.addIVx (x : Reg) : FixedBits.Statement (.addIVx x) := FixedBits.xsub 0xf x 0x1e

theorem FixedBits.ldFVx (x : Reg) : FixedBits.Statement (.ldFVx x) := FixedBits.xsub 0xf x 0x29

theorem FixedBits.ldBVx (x : Reg) : FixedBits.Statement (.ldBVx x) := FixedBits.xsub 0xf x 0x33

theorem FixedBits.ldMemVx (x : Reg) : FixedBits.Statement (.ldMemVx x) := FixedBits.xsub 0xf x 0x55

theorem FixedBits.ldVxMem (x : Reg) : FixedBits.Statement (.ldVxMem x) := FixedBits.xsub 0xf x 0x65

end Laws

end Sys2Proof
end

