-- ==== Sys2Proof/Laws/Step.lean ====
section
/-! SUPPORT. What one step can do, said once: `step_cases`. -/

namespace Sys2Proof.Machine

theorem State.fetch_fault {s : State} (h : 0xFFF < s.pc.toNat + 1) : s.fetch = .error .outOfBoundsMemoryAccess :=
  if_pos h

theorem State.fetch_ok {s : State} (h : s.pc.toNat + 1 ≤ 0xFFF) :
    s.fetch = .ok (wordOfBytes (s.readByte s.pc.toNat) (s.readByte (s.pc.toNat + 1))) :=
  if_neg (by omega)

/-- A step with a next state is one agent's: the loop's fetch fault, decode fault or instruction, a timer's, or a
reset's. -/
theorem step_cases {s t : State} (h : step s = .next t) :
    (s.nextAgent = .loop ∧ s.runState = .running ∧
      ((0xFFF < s.pc.toNat + 1 ∧ t = s.popSchedule.takeFault .outOfBoundsMemoryAccess) ∨
        (s.pc.toNat + 1 ≤ 0xFFF ∧ ∃ w, w = wordOfBytes (s.readByte s.pc.toNat) (s.readByte (s.pc.toNat + 1)) ∧
          ((∃ r, decodeWord w = .error r ∧ t = s.popSchedule.takeFault (rejectKind s.cfg r)) ∨
            ∃ i, decodeWord w = .ok i ∧ exec i s.popSchedule = .next t)))) ∨
    (s.nextAgent = .tickDt ∧ t = s.popSchedule.tickDt) ∨
    (s.nextAgent = .tickSt ∧ t = s.popSchedule.tickSt) ∨
    (s.nextAgent = .stWrite ∧ t = s.popSchedule.stWrite) ∨
    (∃ image, s.nextAgent = .rst image ∧ t = s.popSchedule.rst image) := by
  unfold step at h
  cases ha : s.nextAgent with
  | loop =>
    simp only [ha, agentStep, loopStep, State.popSchedule_runState] at h
    cases hr : s.runState with
    | halted => simp [hr] at h
    | faulted => simp [hr] at h
    | running =>
      simp only [hr] at h
      refine .inl ⟨rfl, rfl, ?_⟩
      by_cases hp : 0xFFF < s.pc.toNat + 1
      · rw [State.fetch_fault (s := s.popSchedule) hp] at h
        injection h with h
        exact .inl ⟨hp, h.symm⟩
      · have hp : s.pc.toNat + 1 ≤ 0xFFF := by omega
        rw [State.fetch_ok (s := s.popSchedule) hp] at h
        refine .inr ⟨hp, _, rfl, ?_⟩
        simp only [runWord, State.popSchedule_pc, State.popSchedule_readByte, State.popSchedule_cfg] at h
        split at h <;> rename_i hd
        · exact .inr ⟨_, hd, h⟩
        · injection h with h
          exact .inl ⟨_, hd, h.symm⟩
  | tickDt =>
    simp only [ha, agentStep] at h
    injection h with h
    exact .inr (.inl ⟨rfl, h.symm⟩)
  | tickSt =>
    simp only [ha, agentStep] at h
    injection h with h
    exact .inr (.inr (.inl ⟨rfl, h.symm⟩))
  | stWrite =>
    simp only [ha, agentStep] at h
    injection h with h
    exact .inr (.inr (.inr (.inl ⟨rfl, h.symm⟩)))
  | rst image =>
    simp only [ha, agentStep] at h
    injection h with h
    exact .inr (.inr (.inr (.inr ⟨image, rfl, h.symm⟩)))

/-- A run of `k + 1` steps that answers a next state is one step and a run of `k`. -/
theorem Core.run_cons {M : Host.Core} {k : Nat} {s u : M.State} (h : M.run (k + 1) s = .next u) :
    ∃ t, M.step s = .next t ∧ M.run k t = .next u := by
  simp only [Host.Core.run] at h
  cases hs : M.step s with
  | next t => rw [hs] at h; exact ⟨t, rfl, h⟩
  | fault r => rw [hs] at h; cases h
  | refused r => rw [hs] at h; cases h

/-- The same of this machine. -/
theorem run_cons {k : Nat} {s u : State} (h : Sys2Proof.core.run (k + 1) s = .next u) :
    ∃ t, step s = .next t ∧ Sys2Proof.core.run k t = .next u := Core.run_cons (M := Sys2Proof.core) h

end Sys2Proof.Machine
end

