-- ==== Sys2Proof/Tests/Slice0.lean ====
section
/-! SUPPORT. The model's own tests: well-formedness, decoding word by word, at most two one-step vectors per instruction,
the timers, reset; then, for each statement with hypotheses, a witness that meets them. The expected values are those of
spec/95_test_vectors.md (the vector's number stands at the test) or are worked out by hand from the rule named. -/

namespace Sys2Proof.Tests

open Sys2Proof.Machine

/-! ### Helpers -/

/-- A result is a next state that passes a check. -/
def nextIs (r : Result) (p : State → Bool) : Bool :=
  match r with
  | .next t => p t
  | _ => false

/-- Reset with one instruction stored where it is fetched next. -/
def start (w : Nat) : State := State.reset.withFetchWord 16 w

/-- A state with that instruction next. -/
def State.withNext (s : State) (w : Nat) : State := s.withFetchWord 16 w

/-- Reset with every unit present. -/
def equipped : State :=
  { State.reset with
    cfg := { defaultConfig with displayPresent := true, keypadPresent := true, bcdImplemented := true } }

/-- Reset with the sound timer guarded. -/
def guarded : State := { State.reset with cfg := { defaultConfig with soundTimerGuarded := true } }

/-- The environment has fixed the coming replies of `rnd`, `keys` and `disp_collision`. -/
def State.replies (s : State) (r : Byte) (k : Word) (c : Bool) : State := { s with draws := ⟨[r], [k], [c], 0⟩ }

/-- An agent's step comes next. -/
def State.turn (s : State) (a : Agent) : State := { s with schedule := [a] }

/-- The run has ended by HALT. -/
def State.ended (s : State) : State := { s with runState := .halted, postStopDt := true, postStopSt := true }

/-- The step ended in this fault with `PC` here. -/
def faultsAt (r : Result) (k : FaultKind) (pc : Word) : Bool :=
  nextIs r fun t => t.runState == .faulted && t.faultKind == some k && t.pc == pc

/-! ### Well-formedness (R87, R282) -/

/-- A field of each width refuses the first value that it does not hold (R87). -/
theorem test_operand_fields :
    OperandField.fits ⟨15, 4⟩ = true ∧ OperandField.fits ⟨16, 4⟩ = false ∧
    OperandField.fits ⟨255, 8⟩ = true ∧ OperandField.fits ⟨256, 8⟩ = false ∧
    OperandField.fits ⟨4095, 12⟩ = true ∧ OperandField.fits ⟨4096, 12⟩ = false := by decide

/-- The operand fields are the formats of R88, in order. -/
theorem test_operand_formats :
    (Instr.drw 15 1 7).operandFields = [⟨15, 4⟩, ⟨1, 4⟩, ⟨7, 4⟩] ∧
    (Instr.rnd 3 0xFF).operandFields = [⟨3, 4⟩, ⟨255, 8⟩] ∧
    (Instr.call 0xFFF).operandFields = [⟨4095, 12⟩] ∧ Instr.halt.operandFields = [] := by decide

/-- V180, V181: an odd image is refused, the empty one accepted. -/
theorem test_image_parity :
    imageWellFormed [1, 2, 3] = false ∧ imageWellFormed [] = true ∧ imageWellFormed [0x12, 0x34] = true := by decide

/-- V182, V183: 0xE00 bytes fit, 0xE02 do not. -/
theorem test_image_size :
    imageWellFormed (List.replicate 0xE00 0) = true ∧ imageWellFormed (List.replicate 0xE02 0) = false := by
  unfold imageWellFormed
  rw [List.length_replicate, List.length_replicate]
  decide

/-! ### Decoding: one word for every constructor, bit by bit from R88 and R90 -/

theorem test_decode_family0 :
    decodeWord 0b0000000011100000 = .ok .cls ∧ decodeWord 0b0000000011101110 = .ok .ret ∧
    decodeWord 0b0000000011111101 = .ok .halt := by decide

theorem test_decode_flow :
    decodeWord 0b0001001000110100 = .ok (.jp 0x234) ∧ decodeWord 0b0010101010111100 = .ok (.call 0xABC) ∧
    decodeWord 0b1011001100000000 = .ok (.jpV0 0x300) := by decide

theorem test_decode_skips :
    decodeWord 0b0011000100101010 = .ok (.seVxKk 1 0x2A) ∧ decodeWord 0b0100111010000001 = .ok (.sneVxKk 14 0x81) ∧
    decodeWord 0b0101001000110000 = .ok (.seVxVy 2 3) ∧ decodeWord 0b1001001000110000 = .ok (.sneVxVy 2 3) := by decide

theorem test_decode_immediates :
    decodeWord 0b0110101001011100 = .ok (.ldVxKk 10 0x5C) ∧ decodeWord 0b0111001100000010 = .ok (.addVxKk 3 0x02) ∧
    decodeWord 0b1010001011110000 = .ok (.ldI 0x2F0) ∧ decodeWord 0b1100001100001111 = .ok (.rnd 3 0x0F) := by decide

theorem test_decode_family8 :
    decodeWord 0b1000000000010000 = .ok (.ldVxVy 0 1) ∧ decodeWord 0b1000010001110001 = .ok (.orVxVy 4 7) ∧
    decodeWord 0b1000100101100010 = .ok (.andVxVy 9 6) ∧ decodeWord 0b1000001111000011 = .ok (.xorVxVy 3 12) ∧
    decodeWord 0b1000111100010100 = .ok (.addVxVy 15 1) ∧ decodeWord 0b1000010110100101 = .ok (.sub 5 10) ∧
    decodeWord 0b1000001000110110 = .ok (.shr 2 3) ∧ decodeWord 0b1000101111010111 = .ok (.subn 11 13) ∧
    decodeWord 0b1000100011101110 = .ok (.shl 8 14) := by decide

theorem test_decode_collaborators :
    decodeWord 0b1101000000010101 = .ok (.drw 0 1 5) ∧ decodeWord 0b1110010110011110 = .ok (.skp 5) ∧
    decodeWord 0b1110011010100001 = .ok (.sknp 6) ∧ decodeWord 0b1111001000001010 = .ok (.ldVxK 2) := by decide

theorem test_decode_familyF :
    decodeWord 0b1111010100000111 = .ok (.ldVxDt 5) ∧ decodeWord 0b1111100100010101 = .ok (.ldDtVx 9) ∧
    decodeWord 0b1111000100011000 = .ok (.ldStVx 1) ∧ decodeWord 0b1111001000011110 = .ok (.addIVx 2) ∧
    decodeWord 0b1111101000101001 = .ok (.ldFVx 10) ∧ decodeWord 0b1111001100110011 = .ok (.ldBVx 3) ∧
    decodeWord 0b1111111101010101 = .ok (.ldMemVx 15) ∧ decodeWord 0b1111000001100101 = .ok (.ldVxMem 0) := by decide

/-- V16, V17, V48, V52, V106, V135, V165: words that name no instruction (R91). -/
theorem test_decode_rejected :
    decodeWord 0x01EE = .error .family0 ∧ decodeWord 0x00E1 = .error .family0 ∧ decodeWord 0x5231 = .error .family5 ∧
    decodeWord 0x8018 = .error .family8 ∧ decodeWord 0x801F = .error .family8 ∧ decodeWord 0x923F = .error .family9 ∧
    decodeWord 0xE000 = .error .familyE ∧ decodeWord 0xF030 = .error .familyF ∧
    decodeWord 0xFF66 = .error .familyF ∧ decodeBytes [0x60] = .error .truncated := by decide

/-- W9 and V2: the fields of 0xD5A7 and of 0xFFFF. -/
theorem test_fields :
    fields 0xD5A7 = ⟨0xD, 0x5, 0xA, 0x7, 0xA7, 0x5A7⟩ ∧ fields 0xFFFF = ⟨0xF, 0xF, 0xF, 0xF, 0xFF, 0xFFF⟩ := by decide

/-- The table numbering: one word, high byte first in memory (R63). -/
theorem test_table_words :
    decodeTableWord 16 0x6005 = some (.ldVxKk 0 5) ∧ decodeTableWord 16 0x0000 = none ∧
    tableBytes 16 0x1234 = [0x12, 0x34] := by decide

/-! ### Fetch (R103) -/

/-- V3, V6: a fetch at 0xFFE, a fetch at an odd address. -/
theorem test_fetch :
    nextIs (step (State.withNext (State.reset.setPc 0xFFE) 0x6001)) (fun t => t.getV 0 == 1 && t.pc == 0x1000) = true ∧
    nextIs (step (State.withNext (State.reset.setPc 0x201) 0x6007)) (fun t => t.getV 0 == 7 && t.pc == 0x203) = true := by
  decide

/-- V4, V5: a fetch past memory faults and holds `PC`. -/
theorem test_fetch_fault :
    faultsAt (step (State.reset.setPc 0x1000)) .outOfBoundsMemoryAccess 0x1000 = true ∧
    faultsAt (step (State.reset.setPc 0xFFF)) .outOfBoundsMemoryAccess 0xFFF = true := by decide

/-- V15, V48, V106, V165, V130, V135: decode faults. -/
theorem test_decode_faults :
    faultsAt (step (start 0x0000)) .unimplementedOpcode 0x200 = true ∧
    faultsAt (step (start 0x5231)) .unrecognizedOpcode 0x200 = true ∧
    faultsAt (step (start 0x8018)) .unrecognizedOpcode 0x200 = true ∧
    faultsAt (step (start 0xF030)) .unrecognizedOpcode 0x200 = true ∧
    faultsAt (step (start 0xE000)) .unimplementedOpcode 0x200 = true ∧
    faultsAt (step (State.withNext equipped 0xE000)) .unrecognizedOpcode 0x200 = true := by decide

/-! ### One step of each instruction -/

/-- V10 -/
theorem test_cls : nextIs (step (start 0x00E0)) (fun t => t.pc == 0x202 && t.dispOut == [.clear]) = true := by decide

/-- V11 -/
theorem test_ret :
    nextIs (step (State.withNext { State.reset with sp := 1, stack := State.reset.stack.set 0 0x204, pc := 0x300 } 0x00EE))
      (fun t => t.pc == 0x204 && t.sp == 0) = true := by decide

/-- V12 -/
theorem test_ret_empty :
    faultsAt (step (State.withNext (State.reset.setPc 0x300) 0x00EE)) .stackUnderflow 0x300 = true := by decide

/-- V14 -/
theorem test_halt :
    nextIs (step (State.withNext (State.reset.setPc 0x202) 0x00FD))
      (fun t => t.runState == .halted && t.pc == 0x202 && t.exitStatus == some 0) = true := by decide

/-- V20 -/
theorem test_jp : nextIs (step (start 0x1234)) (fun t => t.pc == 0x234) = true := by decide

/-- V25 -/
theorem test_call :
    nextIs (step (State.withNext { State.reset with sp := 15, pc := 0x400 } 0x2300))
      (fun t => t.stack[15] == 0x402 && t.sp == 16 && t.pc == 0x300) = true := by decide

/-- V26 -/
theorem test_call_full :
    faultsAt (step (State.withNext { State.reset with sp := 16, pc := 0x202 } 0x2300)) .stackOverflow 0x202 = true := by decide

/-- V30: no reduction; V31, with VF holding the 0x50: only `V[0]` is added, whatever the top nibble of `nnn`. -/
theorem test_jpV0 :
    nextIs (step (State.withNext (State.reset.setV 0 0xFF) 0xBFFF)) (fun t => t.pc == 0x10FE) = true ∧
    nextIs (step (State.withNext ((State.reset.setV 0 0x01).setV 15 0x50) 0xBFFE)) (fun t => t.pc == 0xFFF) = true := by decide

/-- V40, V41 -/
theorem test_seVxKk :
    nextIs (step (State.withNext (State.reset.setV 1 0x2A) 0x312A)) (fun t => t.pc == 0x204) = true ∧
    nextIs (step (State.withNext (State.reset.setV 1 0x2B) 0x312A)) (fun t => t.pc == 0x202) = true := by decide

/-- V43, V44 -/
theorem test_sneVxKk :
    nextIs (step (State.withNext (State.reset.setV 1 0x2B) 0x412A)) (fun t => t.pc == 0x204) = true ∧
    nextIs (step (State.withNext (State.reset.setV 1 0x2A) 0x412A)) (fun t => t.pc == 0x202) = true := by decide

/-- V45, V46 -/
theorem test_seVxVy :
    nextIs (step (State.withNext ((State.reset.setV 2 7).setV 3 7) 0x5230)) (fun t => t.pc == 0x204) = true ∧
    nextIs (step (State.withNext ((State.reset.setV 2 7).setV 3 8) 0x5230)) (fun t => t.pc == 0x202) = true := by decide

/-- V49, V50 -/
theorem test_sneVxVy :
    nextIs (step (State.withNext ((State.reset.setV 2 7).setV 3 8) 0x9230)) (fun t => t.pc == 0x204) = true ∧
    nextIs (step (State.withNext ((State.reset.setV 2 7).setV 3 7) 0x9230)) (fun t => t.pc == 0x202) = true := by decide

/-- V61 -/
theorem test_ldVxKk : nextIs (step (start 0x6FAA)) (fun t => t.getV 15 == 0xAA && t.pc == 0x202) = true := by decide

/-- V62 -/
theorem test_addVxKk :
    nextIs (step (State.withNext (State.reset.setV 3 0xFF) 0x7302)) (fun t => t.getV 3 == 0x01 && t.getV 15 == 0) = true := by
  decide

/-- V70 -/
theorem test_ldVxVy :
    nextIs (step (State.withNext ((State.reset.setV 1 0x42).setV 15 0x55) 0x8010))
      (fun t => t.getV 0 == 0x42 && t.getV 1 == 0x42 && t.getV 15 == 0x55) = true := by decide

/-- V71 -/
theorem test_orVxVy :
    nextIs (step (State.withNext (((State.reset.setV 0 0x0F).setV 1 0xF0).setV 15 0x55) 0x8011))
      (fun t => t.getV 0 == 0xFF && t.getV 15 == 0x55) = true := by decide

/-- V72 -/
theorem test_andVxVy :
    nextIs (step (State.withNext (((State.reset.setV 0 0x3C).setV 1 0x0F).setV 15 0x55) 0x8012))
      (fun t => t.getV 0 == 0x0C && t.getV 15 == 0x55) = true := by decide

/-- V73 -/
theorem test_xorVxVy :
    nextIs (step (State.withNext (((State.reset.setV 0 0xFF).setV 1 0x0F).setV 15 0x55) 0x8013))
      (fun t => t.getV 0 == 0xF0 && t.getV 15 == 0x55) = true := by decide

/-- V77: 200 + 100 carries, and the literal predicate says 0. -/
theorem test_addVxVy :
    nextIs (step (State.withNext (((State.reset.setV 0 0xC8).setV 1 0x64).setV 15 0x55) 0x8014))
      (fun t => t.getV 0 == 0x2C && t.getV 15 == 0) = true := by decide

/-- V84: the old VF is an operand. -/
theorem test_addVxVy_vf :
    nextIs (step (State.withNext ((State.reset.setV 0 0x90).setV 15 0x90) 0x80F4))
      (fun t => t.getV 0 == 0x20 && t.getV 15 == 1) = true := by decide

/-- V86: equal operands give flag 0. -/
theorem test_sub :
    nextIs (step (State.withNext (((State.reset.setV 0 3).setV 1 3).setV 15 0x55) 0x8015))
      (fun t => t.getV 0 == 0 && t.getV 15 == 0) = true := by decide

/-- V90: the flag overwrites the result in VF. -/
theorem test_sub_vf :
    nextIs (step (State.withNext ((State.reset.setV 15 0x10).setV 1 0x01) 0x8F15)) (fun t => t.getV 15 == 1) = true := by decide

/-- V95: `y` is ignored. -/
theorem test_shr :
    nextIs (step (State.withNext (((State.reset.setV 2 4).setV 3 3).setV 15 0x55) 0x8236))
      (fun t => t.getV 2 == 2 && t.getV 3 == 3 && t.getV 15 == 0) = true := by decide

/-- V94 -/
theorem test_shr_low_bit :
    nextIs (step (State.withNext (State.reset.setV 2 0xFF) 0x8206)) (fun t => t.getV 2 == 0x7F && t.getV 15 == 1) = true := by
  decide

/-- V98, V100 -/
theorem test_subn :
    nextIs (step (State.withNext ((State.reset.setV 0 3).setV 1 0x0A) 0x8017)) (fun t => t.getV 0 == 7 && t.getV 15 == 1) = true ∧
    nextIs (step (State.withNext ((State.reset.setV 0 5).setV 1 2) 0x8017)) (fun t => t.getV 0 == 0xFD && t.getV 15 == 0) =
      true := by decide

/-- V101 -/
theorem test_shl :
    nextIs (step (State.withNext (State.reset.setV 2 0x81) 0x820E)) (fun t => t.getV 2 == 0x02 && t.getV 15 == 1) = true := by
  decide

/-- V105 -/
theorem test_shl_vf :
    nextIs (step (State.withNext (State.reset.setV 15 0x40) 0x8F0E)) (fun t => t.getV 15 == 0) = true := by decide

/-- V110 -/
theorem test_ldI : nextIs (step (start 0xA2F0)) (fun t => t.i == 0x2F0) = true := by decide

/-- V112 -/
theorem test_rnd :
    nextIs (step (State.withNext (State.replies State.reset 0xA7 0 false) 0xC30F))
      (fun t => t.getV 3 == 0x07 && t.draws.rnd == []) = true := by decide

/-- V121 -/
theorem test_drw :
    nextIs
      (step (State.withNext
        (((((State.replies equipped 0 0 true).setI 0x300).setV 0 1).setV 1 2).loadImage [0xF0, 0x90, 0xF0] 0x300) 0xD013))
      (fun t => t.dispOut == [.draw 1 2 [0xF0, 0x90, 0xF0]] && t.getV 15 == 1 && t.pc == 0x202) = true := by decide

/-- V122, V120 -/
theorem test_drw_faults :
    faultsAt (step (State.withNext (equipped.setI 0xFFE) 0xD013)) .outOfBoundsMemoryAccess 0x200 = true ∧
    faultsAt (step (start 0xD015)) .unimplementedOpcode 0x200 = true := by decide

/-- V133, V132 -/
theorem test_skp :
    nextIs (step (State.withNext ((State.replies equipped 0 0x0020 false).setV 0 0x15) 0xE09E)) (fun t => t.pc == 0x204) = true ∧
    nextIs (step (State.withNext ((State.replies equipped 0 0 false).setV 0 5) 0xE09E)) (fun t => t.pc == 0x202) = true := by
  decide

/-- V134 -/
theorem test_sknp :
    nextIs (step (State.withNext ((State.replies equipped 0 0 false).setV 0 5) 0xE0A1)) (fun t => t.pc == 0x204) = true := by
  decide

/-- V140 -/
theorem test_ldVxDt :
    nextIs (step (State.withNext (State.reset.setDt 0x3C) 0xF507)) (fun t => t.getV 5 == 0x3C) = true := by decide

/-- V136, V137 -/
theorem test_ldVxK :
    nextIs (step (State.withNext (State.replies equipped 0 0 false) 0xF20A)) (fun t => t.pc == 0x200 && t.getV 2 == 0) = true ∧
    nextIs (step (State.withNext (State.replies equipped 0 0x0300 false) 0xF20A)) (fun t => t.pc == 0x202 && t.getV 2 == 8) =
      true := by decide

/-- V141 -/
theorem test_ldDtVx :
    nextIs (step (State.withNext (State.reset.setV 5 0x3C) 0xF515)) (fun t => t.dt == 0x3C && t.tickDt.dt == 0x3B) = true := by
  decide

/-- V143 -/
theorem test_ldStVx :
    nextIs (step (State.withNext (State.reset.setV 1 0x10) 0xF118)) (fun t => t.st == 0x10) = true := by decide

/-- V147, V148 -/
theorem test_addIVx :
    nextIs (step (State.withNext ((State.reset.setI 0xFFFF).setV 2 1) 0xF21E)) (fun t => t.i == 0 && t.getV 15 == 0) = true ∧
    nextIs (step (State.withNext ((State.reset.setI 0x0FFF).setV 2 1) 0xF21E)) (fun t => t.i == 0x1000) = true := by decide

/-- V150 -/
theorem test_ldFVx :
    nextIs (step (State.withNext (State.reset.setV 0 0x1A) 0xF029)) (fun t => t.i == 0x32) = true := by decide

/-- V153 -/
theorem test_ldBVx :
    nextIs (step (State.withNext ((equipped.setI 0x300).setV 3 0xFE) 0xF333))
      (fun t => t.readByte 0x300 == 2 && t.readByte 0x301 == 5 && t.readByte 0x302 == 4 && t.i == 0x300) = true := by decide

/-- V156: the digits in bounds stay. -/
theorem test_ldBVx_fault :
    nextIs (step (State.withNext ((equipped.setI 0xFFE).setV 3 0x7B) 0xF333))
      (fun t => t.readByte 0xFFE == 1 && t.readByte 0xFFF == 2 && t.faultKind == some .outOfBoundsMemoryAccess) = true := by
  decide

/-- V157 -/
theorem test_ldMemVx :
    nextIs (step (State.withNext ((((State.reset.setI 0x300).setV 0 1).setV 1 2).setV 2 3) 0xF255))
      (fun t => t.readByte 0x300 == 1 && t.readByte 0x301 == 2 && t.readByte 0x302 == 3 && t.i == 0x300) = true := by decide

/-- V159 -/
theorem test_ldMemVx_fault :
    nextIs (step (State.withNext ((State.reset.setI 0xFFF).setV 0 0xAB) 0xF155))
      (fun t => t.readByte 0xFFF == 0xAB && t.faultKind == some .outOfBoundsMemoryAccess && t.i == 0xFFF) = true := by decide

/-- V162 -/
theorem test_ldVxMem :
    nextIs (step (State.withNext ((State.reset.setI 0x300).loadImage [1, 2, 3] 0x300) 0xF265))
      (fun t => t.getV 0 == 1 && t.getV 1 == 2 && t.getV 2 == 3 && t.getV 3 == 0 && t.i == 0x300) = true := by decide

/-- V164: `V[0]`..`V[14]` are loaded and `V[15]` stays. -/
theorem test_ldVxMem_fault :
    nextIs (step (State.withNext (((State.reset.setI 0xFF1).setV 15 0x77).loadImage [0xAA, 0xBB] 0xFFE) 0xFF65))
      (fun t => t.getV 13 == 0xAA && t.getV 14 == 0xBB && t.getV 15 == 0x77 && t.pc == 0x200) = true := by decide

/-! ### Memory -/

/-- Writing a byte back to its reset value takes it off the list: the glyph byte 0xF0 at 0, zero at 0x300 (R50). -/
theorem test_canonical_memory :
    ((State.reset.writeByte 0 0x12).writeByte 0 0xF0).mem = [] ∧ ((State.reset.writeByte 0x300 1).writeByte 0x300 0).mem = [] ∧
    ((State.reset.writeByte 0x301 1).writeByte 0x300 2).mem = [(0x300, 2), (0x301, 1)] := by decide

/-! ### Timers -/

/-- V170: the delay timer stops at 0. -/
theorem test_tickDt :
    (State.reset.setDt 2).tickDt.dt = 1 ∧ (State.reset.setDt 1).tickDt.dt = 0 ∧ (State.reset.setDt 0).tickDt.dt = 0 := by
  decide

/-- V142: a tick and a write of `DT` in either order. -/
theorem test_delay_race :
    nextIs (exec (.ldDtVx 5) ((State.reset.setDt 1).setV 5 0x3C).tickDt) (fun t => t.dt == 0x3C) = true ∧
    nextIs (exec (.ldDtVx 5) ((State.reset.setDt 1).setV 5 0x3C)) (fun t => t.tickDt.dt == 0x3B) = true := by decide

/-- V144: unguarded, the write of 0x10 is lost. -/
theorem test_sound_race :
    nextIs (exec (.ldStVx 1) ((State.reset.setSt 5).setV 1 0x10).tickSt)
      (fun t => t.stLatch == some 5 && t.st == 0x10 && t.stWrite.st == 4 && t.stWrite.stLatch == none) = true := by decide

/-- V145: guarded, either order. -/
theorem test_sound_guarded :
    nextIs (exec (.ldStVx 1) ((guarded.setSt 5).setV 1 0x10).tickSt) (fun t => t.st == 0x10) = true ∧
    nextIs (exec (.ldStVx 1) ((guarded.setSt 5).setV 1 0x10)) (fun t => t.tickSt.st == 0x0F) = true := by decide

/-- V171: nothing to latch at 0. -/
theorem test_sound_idle : State.reset.tickSt.stLatch = none ∧ State.reset.tickSt.st = 0 := by decide

/-- V172: 5 at the stop, then 4 at the least. -/
theorem test_stop_latency :
    (State.ended (State.reset.setDt 5)).tickDt.dt = 4 ∧ (State.ended (State.reset.setDt 5)).tickDt.tickDt.dt = 4 := by
  decide

/-! ### Reset -/

/-- V184 and the fetch of its first word. -/
theorem test_reset_image :
    (State.reset.rst [0x12, 0x34]).readByte 0x200 = 0x12 ∧ (State.reset.rst [0x12, 0x34]).readByte 0x201 = 0x34 ∧
    (State.reset.rst [0x12, 0x34]).fetch = .ok 0x1234 := by decide

/-- V180: nothing of a malformed image is written. -/
theorem test_reset_malformed :
    (State.reset.rst [1, 2, 3]).runState = .faulted ∧ (State.reset.rst [1, 2, 3]).exitStatus = some 1 ∧
    (State.reset.rst [1, 2, 3]).mem = [] ∧ (State.reset.rst [1, 2, 3]).pc = 0x200 := by decide

/-- A re-reset from a halted run with a pending latch (R280). -/
theorem test_reset_again :
    ({ State.ended (State.reset.setSt 9) with stLatch := some 3, mem := [(0x300, 1)], pc := 0x400 } : State).rst [] =
      State.reset := by decide

/-- The conventional glyph of A (I9). -/
theorem test_glyphs :
    State.reset.readByte 0x32 = 0xF0 ∧ State.reset.readByte 0x33 = 0x90 ∧ State.reset.readByte 0x4F = 0x80 := by decide

/-! ### Witnesses: states and operands that meet a statement's hypotheses, at the boundaries of its clauses -/

theorem witness_DecodeReadsBackEncode :
    (Instr.drw 15 0 15).wellFormed = true ∧ (Instr.jp 0xFFF).wellFormed = true ∧
    (Instr.rnd 0 0xFF).wellFormed = true := by decide

theorem witness_EncodeReadsBackDecode :
    decodeWord 0xFF65 = .ok (.ldVxMem 15) ∧ decodeWord 0x1000 = .ok (.jp 0) ∧ decodeWord 0x8FFE = .ok (.shl 15 15) := by
  decide

/-- The first and the last word of each row of R91. -/
theorem witness_RejectedWordsAreExactlyListed :
    decodeWord 0x0000 = .error .family0 ∧ decodeWord 0x0FFF = .error .family0 ∧
    decodeWord 0x5001 = .error .family5 ∧ decodeWord 0x5FFF = .error .family5 ∧
    decodeWord 0x8008 = .error .family8 ∧ decodeWord 0x8FFF = .error .family8 ∧
    decodeWord 0x9001 = .error .family9 ∧ decodeWord 0x9FFF = .error .family9 ∧
    decodeWord 0xE000 = .error .familyE ∧ decodeWord 0xEFFF = .error .familyE ∧
    decodeWord 0xF000 = .error .familyF ∧ decodeWord 0xFFFF = .error .familyF := by decide

/-- At the last address that can be fetched. -/
theorem witness_StepRunsDecodedInstruction :
    let s := State.withNext (State.reset.setPc 0xFFE) 0x8AB4
    s.runState = .running ∧ s.nextAgent = .loop ∧ s.pc.toNat ≤ 0xFFE ∧
    decodeBytes [s.readByte s.pc.toNat, s.readByte (s.pc.toNat + 1)] = .ok (.addVxVy 10 11) ∧
    (Instr.addVxVy 10 11).wellFormed = true := by decide

theorem witness_FetchPastMemoryFaults :
    (State.reset.setPc 0xFFF).runState = .running ∧ (State.reset.setPc 0xFFF).nextAgent = .loop ∧
    (State.reset.setPc 0xFFF).pc.toNat > 0xFFE ∧ (State.reset.setPc 0x10FE).pc.toNat > 0xFFE := by decide

/-- Each arm of the fault's choice: family 0, family 0xE without and with a keypad, another family. -/
theorem witness_UnmatchedWordFaults :
    decodeBytes [State.reset.readByte 0x200, State.reset.readByte 0x201] = .error .family0 ∧
    State.reset.runState = .running ∧ State.reset.nextAgent = .loop ∧ State.reset.pc.toNat ≤ 0xFFE ∧
    (let s := start 0xEFFF
     decodeBytes [s.readByte 0x200, s.readByte 0x201] = .error .familyE ∧ s.cfg.keypadPresent = false ∧ s.pc = 0x200) ∧
    (let s := State.withNext equipped 0xE000
     decodeBytes [s.readByte 0x200, s.readByte 0x201] = .error .familyE ∧ s.cfg.keypadPresent = true ∧ s.pc = 0x200) ∧
    (let s := start 0x5FFF
     decodeBytes [s.readByte 0x200, s.readByte 0x201] = .error .family5 ∧ s.runState = .running ∧ s.pc = 0x200) := by
  decide

theorem witness_StoppedRunHasNoLoopStep :
    ((State.ended State.reset).runState = .halted ∧ (State.ended State.reset).nextAgent = .loop) ∧
    ((State.reset.takeFault .stackOverflow).runState = .faulted ∧
      (State.reset.takeFault .stackOverflow).nextAgent = .loop) ∧
    (let s := State.turn (State.ended (State.reset.setDt 1)) .tickDt
     s.runState ≠ .running ∧ (∃ t, step s = .next t) ∧ ∀ image, s.nextAgent ≠ .rst image) :=
  ⟨by decide, by decide, by decide, ⟨_, rfl⟩, fun _ h => Agent.noConfusion h⟩

theorem witness_RunStateTransitions :
    (∃ t, step (State.turn (State.ended State.reset) (.rst [0x60, 0x05])) = .next t ∧ t.runState = .running ∧
      imageWellFormed [0x60, 0x05] = true) ∧
    (∃ t, step (State.turn State.reset (.rst [0x60])) = .next t ∧ t.runState = .faulted ∧
      imageWellFormed [0x60] = false) ∧
    (∃ t, step (start 0x00FD) = .next t ∧ t.runState ≠ (start 0x00FD).runState ∧
      ∀ image, (start 0x00FD).nextAgent ≠ .rst image) ∧
    (∃ t, step State.reset = .next t ∧ t.runState ≠ State.reset.runState ∧
      ∀ image, State.reset.nextAgent ≠ .rst image) :=
  ⟨⟨_, rfl, by decide, by decide⟩, ⟨_, rfl, by decide, by decide⟩,
    ⟨_, rfl, by decide, fun _ h => Agent.noConfusion h⟩, ⟨_, rfl, by decide, fun _ h => Agent.noConfusion h⟩⟩

/-- `x` at 14, and operands on each side of every flag's bound. -/
theorem witness_FlagTable :
    (14 : Reg) ≠ 15 ∧ (0 : Reg) ≠ 15 ∧
    (let s := (State.reset.setV 14 129).setV 0 129
     (s.getV 14).toNat > 128 ∧ (s.getV 0).toNat > 128) ∧
    (let s := (State.reset.setV 14 128).setV 0 129
     ¬ ((s.getV 14).toNat > 128 ∧ (s.getV 0).toNat > 128) ∧ (s.getV 0).toNat > (s.getV 14).toNat) := by decide

theorem witness_AddSubtractResults : (14 : Reg) ≠ 15 ∧ (0 : Reg) ≠ 15 := by decide

theorem witness_ShiftResults : (14 : Reg) ≠ 15 ∧ (0 : Reg) ≠ 15 := by decide

theorem witness_RandomByteMasked :
    (State.replies State.reset 0xFF 0 false).draws.rnd = 0xFF :: [] ∧
    (State.replies State.reset 0x00 0 false).draws.rnd = 0x00 :: [] := by decide

theorem witness_SkipOnImmediate :
    (State.reset.setV 15 0xFF).getV 15 = 0xFF ∧ (State.reset.setV 15 0xFE).getV 15 ≠ 0xFF := by decide

theorem witness_SkipOnRegisters :
    (State.reset.setV 15 7).getV 15 = (State.reset.setV 15 7).getV 15 ∧
    (State.reset.setV 15 7).getV 15 ≠ (State.reset.setV 15 7).getV 0 := by decide

/-- Both jumps past memory: to 0xFFF and to 0x10FE. -/
theorem witness_JumpTargetsAreExact :
    (∃ t, exec (.jp 0xFFF) State.reset = .next t ∧ t.runState = .running ∧ t.nextAgent = .loop ∧ t.pc.toNat > 0xFFE) ∧
    (∃ t, exec (.jpV0 0xFFF) (State.reset.setV 0 0xFF) = .next t ∧ t.runState = .running ∧ t.nextAgent = .loop ∧
      t.pc.toNat = 0x10FE) :=
  ⟨⟨_, rfl, by decide⟩, ⟨_, rfl, by decide⟩⟩

theorem witness_CallPushesReturnAddress :
    ({ State.reset with sp := 15 } : State).sp.val < 16 ∧ State.reset.sp.val < 16 ∧
    ({ State.reset with sp := 16 } : State).sp.val = 16 := by decide

theorem witness_ReturnPopsAddress :
    ({ State.reset with sp := 1 } : State).sp.val = (0 : Reg).val + 1 ∧
    ({ State.reset with sp := 16 } : State).sp.val = (15 : Reg).val + 1 ∧ State.reset.sp.val = 0 := by decide

/-- With no step and with one (a timer's) between CALL and RET, from the deepest stack that still has room. -/
theorem witness_CallReturnRoundTrip :
    let s := State.turn { State.reset with sp := 15, dt := 9 } .tickDt
    s.sp.val < 16 ∧ ∃ t u, exec (.call 0x300) s = .next t ∧
      RunsAbove (s.sp.val + 1) 0 t t ∧ t.sp.val = s.sp.val + 1 ∧
      RunsAbove (s.sp.val + 1) 1 t u ∧ u.sp.val = s.sp.val + 1 :=
  ⟨by decide, _, _, rfl, ⟨rfl, by decide⟩, rfl, ⟨by decide, _, rfl, rfl, by decide⟩, by decide⟩

theorem witness_BcdDigitsStored :
    equipped.cfg.bcdImplemented = true ∧ (equipped.setI 0xFFD).i.toNat + 2 ≤ 0xFFF ∧
    ((equipped.setI 0xFFE).i.toNat + 2 > 0xFFF ∧ (equipped.setI 0xFFE).blockBase + 1 ≤ 0xFFF) ∧
    ((equipped.setI 0xFFF).i.toNat + 2 > 0xFFF ∧ (equipped.setI 0xFFF).blockBase ≤ 0xFFF) := by decide

theorem witness_BlockStoreCompletes :
    (State.reset.setI 0xFF0).i.toNat + (15 : Reg).val ≤ 0xFFF ∧ (State.reset.setI 0xFFF).i.toNat + (0 : Reg).val ≤ 0xFFF := by
  decide

theorem witness_BlockLoadCompletes :
    (State.reset.setI 0xFF0).i.toNat + (15 : Reg).val ≤ 0xFFF ∧ (State.reset.setI 0xFFF).i.toNat + (0 : Reg).val ≤ 0xFFF := by
  decide

/-- The last byte out, every byte out. -/
theorem witness_BlockTransferFaultsPastMemory :
    ((State.reset.setI 0xFF1).i.toNat + (15 : Reg).val > 0xFFF ∧ (State.reset.setI 0xFF1).blockBase + (14 : Reg).val ≤ 0xFFF) ∧
    (State.reset.setI 0x1000).i.toNat + (0 : Reg).val > 0xFFF := by decide

theorem witness_BlockStoreThenLoadRestores :
    let s := (State.reset.setI 0xFFE).setV 1 0x5A
    s.i.toNat + (1 : Reg).val ≤ 0xFFF ∧ ∃ t u, exec (.ldMemVx 1) s = .next t ∧ u = (t.setV 0 7).setV 1 9 ∧
      u.mem = t.mem ∧ u.cfg = t.cfg ∧ u.i = t.i :=
  ⟨by decide, _, _, rfl, rfl, rfl, rfl, rfl⟩

/-- The two bytes behind the store itself. -/
theorem witness_StoredCodeIsFetched :
    let s := State.reset.setI 0x202
    s.i.toNat + (1 : Reg).val ≤ 0xFFF ∧ (∃ t, exec (.ldMemVx 1) s = .next t) ∧ (0 : Reg) ≤ 1 ∧ (1 : Reg) ≤ 1 ∧
      (1 : Reg).val = (0 : Reg).val + 1 ∧ s.pc.toNat + 2 = s.i.toNat + (0 : Reg).val :=
  ⟨by decide, ⟨_, rfl⟩, by decide, by decide, by decide, by decide⟩

theorem witness_DrawSendsRows :
    equipped.cfg.displayPresent = true ∧ (equipped.setI 0xFF1).i.toNat + (15 : Nibble).toNat ≤ 0x1000 ∧
    ((equipped.setI 0xFFFF).i.toNat + (0 : Nibble).toNat > 0x1000 ∧ (0 : Nibble) = 0) ∧
    ((equipped.setI 0xFF2).i.toNat + (15 : Nibble).toNat > 0x1000 ∧ (15 : Nibble) ≠ 0) ∧
    (State.replies equipped 0 0 true).draws.collision = true :: [] ∧
    (State.replies equipped 0 0 false).draws.collision = false :: [] := by decide

theorem witness_SkipOnKey :
    let s := (State.replies equipped 0 0x8000 false).setV 2 0xFF
    s.cfg.keypadPresent = true ∧ s.draws.keys = 0x8000 :: [] ∧ s.keysDraw.getLsbD ((s.getV 2).toNat % 16) = true ∧
      s.keysDraw.getLsbD ((s.getV 0).toNat % 16) = false := by decide

theorem witness_WaitForKey :
    equipped.cfg.keypadPresent = true ∧ (State.replies equipped 0 0 false).keysDraw = 0 ∧
    (State.replies equipped 0 0 false).draws.keys = 0 :: [] ∧
    (let s := State.replies equipped 0 0x8000 false
     s.keysDraw.getLsbD (15 : Reg).val = true ∧ ∀ j : Reg, j < 15 → s.keysDraw.getLsbD j.val = false) ∧
    (let s := State.replies equipped 0 0xFFFF false
     s.keysDraw.getLsbD (0 : Reg).val = true ∧ ∀ j : Reg, j < 0 → s.keysDraw.getLsbD j.val = false) := by decide

theorem witness_AbsentUnitsFault :
    State.reset.cfg.displayPresent = false ∧ State.reset.cfg.keypadPresent = false ∧
    State.reset.cfg.bcdImplemented = false := by decide

theorem witness_WritersOfVF :
    (∃ t, exec (.addVxVy 0 1) (State.reset.setV 15 5) = .next t ∧ t.getV 15 ≠ (State.reset.setV 15 5).getV 15) ∧
    (∃ t, exec (.ldVxKk 15 1) State.reset = .next t ∧ t.getV 15 ≠ State.reset.getV 15) ∧
    (∃ t, exec (.drw 0 1 0) (State.replies equipped 0 0 true) = .next t ∧ t.getV 15 ≠ equipped.getV 15) :=
  ⟨⟨_, rfl, by decide⟩, ⟨_, rfl, by decide⟩, ⟨_, rfl, by decide⟩⟩

theorem witness_WritersOfOtherState :
    (∃ t, exec (.ldI 0xFFF) State.reset = .next t ∧ t.i ≠ State.reset.i) ∧
    (∃ t, exec (.call 0x300) State.reset = .next t ∧ t.sp ≠ State.reset.sp ∧ t.stack ≠ State.reset.stack) ∧
    (∃ t, exec (.ldDtVx 1) (State.reset.setV 1 1) = .next t ∧ t.dt ≠ State.reset.dt) ∧
    (∃ t, exec (.ldStVx 1) (State.reset.setV 1 1) = .next t ∧ t.st ≠ State.reset.st) ∧
    (∃ t, exec (.ldMemVx 0) ((State.reset.setV 0 1).setI 0x300) = .next t ∧ t.mem ≠ State.reset.mem) ∧
    (∃ t, exec .cls State.reset = .next t ∧ t.dispOut ≠ State.reset.dispOut) :=
  ⟨⟨_, rfl, by decide⟩, ⟨_, rfl, by decide⟩, ⟨_, rfl, by decide⟩, ⟨_, rfl, by decide⟩, ⟨_, rfl, by decide⟩,
    ⟨_, rfl, by decide⟩⟩

/-- One state for each of the four kinds, and for the last one each instruction with one byte out of bounds. -/
theorem witness_FaultsOfInstructions :
    State.reset.runState = .running ∧
    (∃ t, exec (.call 0) { State.reset with sp := 16 } = .next t ∧ t.runState = .faulted ∧
      t.faultKind = some .stackOverflow) ∧
    (∃ t, exec .ret State.reset = .next t ∧ t.runState = .faulted ∧ t.faultKind = some .stackUnderflow) ∧
    (∃ t, exec (.skp 0) State.reset = .next t ∧ t.runState = .faulted ∧ t.faultKind = some .unimplementedOpcode) ∧
    (∃ t, exec (.ldVxMem 15) (State.reset.setI 0xFF1) = .next t ∧ t.runState = .faulted ∧
      t.faultKind = some .outOfBoundsMemoryAccess) ∧
    (∃ t, exec (.ldMemVx 0) (State.reset.setI 0x1000) = .next t ∧ t.runState = .faulted ∧
      t.faultKind = some .outOfBoundsMemoryAccess) ∧
    (∃ t, exec (.ldBVx 0) (equipped.setI 0xFFE) = .next t ∧ t.runState = .faulted ∧
      t.faultKind = some .outOfBoundsMemoryAccess) ∧
    (∃ t, exec (.drw 0 1 2) (equipped.setI 0xFFF) = .next t ∧ t.runState = .faulted ∧
      t.faultKind = some .outOfBoundsMemoryAccess) :=
  ⟨by decide, ⟨_, rfl, by decide⟩, ⟨_, rfl, by decide⟩, ⟨_, rfl, by decide⟩, ⟨_, rfl, by decide⟩, ⟨_, rfl, by decide⟩,
    ⟨_, rfl, by decide⟩, ⟨_, rfl, by decide⟩⟩

theorem witness_FaultsArePrecise :
    State.reset.runState = .running ∧ (∃ t, exec .ret State.reset = .next t ∧ t.runState = .faulted) ∧
    (∃ t, exec (.ldMemVx 1) (State.reset.setI 0xFFF) = .next t ∧ t.runState = .faulted) :=
  ⟨by decide, ⟨_, rfl, by decide⟩, ⟨_, rfl, by decide⟩⟩

theorem witness_ExitStatusReportsTheFault :
    State.reset.faultKind = none ∧ State.reset.runState = .running ∧ (State.ended State.reset).runState = .halted ∧
    (State.reset.takeFault .outOfBoundsMemoryAccess).runState = .faulted ∧
    (State.reset.takeFault .outOfBoundsMemoryAccess).faultKind = some .outOfBoundsMemoryAccess := by decide

/-- A stopped state with a full latch and a listed byte, and its next step, the write phase. -/
def latched : State :=
  { State.turn (State.ended (State.reset.setSt 5)) .stWrite with
    stLatch := some 5, pc := 0x10FE, sp := 1, stack := State.reset.stack.set 0 0x1000, mem := [(0xFFF, 1)] }

theorem latched_inv : latched.Inv where
  memory := by decide
  pcBound := by decide
  returnBound := by decide
  faultedIff := by decide
  noPostStop := by decide
  noOutcome := by decide
  guardedLatch := by decide
  latchNonzero := by decide
  stoppedLatch := by decide

theorem witness_StepKeepsInvariant : ∃ s t, s.Inv ∧ step s = .next t := ⟨latched, _, latched_inv, rfl⟩

theorem witness_CanonicalMemoryIsUnique :
    let d := resetByte defaultConfig
    Memory.wf d [(0, 1), (0xFFF, 2)] = true ∧ Memory.wf d ((State.reset.writeByte 0xFFF 2).writeByte 0 1).mem = true ∧
    ∀ a, Memory.read d [(0, 1), (0xFFF, 2)] a = Memory.read d ((State.reset.writeByte 0xFFF 2).writeByte 0 1).mem a :=
  ⟨by decide, by decide, fun _ => rfl⟩

/-- RUNNING at 1, stopped with the permission at 0xFF, at 0, and stopped without the permission. -/
theorem witness_DelayTimerTick :
    (let s := State.turn (State.reset.setDt 1) .tickDt
     s.nextAgent = .tickDt ∧ s.runState = .running ∧ s.dt ≠ 0) ∧
    (let s := State.turn (State.ended (State.reset.setDt 0xFF)) .tickDt
     s.nextAgent = .tickDt ∧ s.runState ≠ .running ∧ s.postStopDt = true ∧ s.dt ≠ 0) ∧
    (State.turn State.reset .tickDt).dt = 0 ∧
    (let s := State.turn { State.reset.setDt 1 with runState := .halted } .tickDt
     ¬ (s.runState = .running ∨ s.postStopDt = true)) := by decide

theorem witness_PostStopPermission :
    (∃ t, step (start 0x00FD) = .next t ∧ (start 0x00FD).nextAgent = .loop ∧ t.runState ≠ .running) ∧
    (∃ t, step (start 0x6005) = .next t ∧ (start 0x6005).nextAgent = .loop ∧ t.runState = .running) ∧
    (∃ s t, s.nextAgent = .tickDt ∧ step s = .next t ∧ t.dt ≠ s.dt) ∧
    (∃ s t, s.nextAgent = .tickDt ∧ step s = .next t ∧ t.dt = s.dt) :=
  ⟨⟨_, rfl, by decide⟩, ⟨_, rfl, by decide⟩, ⟨State.turn (State.ended (State.reset.setDt 1)) .tickDt, _, rfl, rfl, by decide⟩,
    ⟨State.turn State.reset .tickDt, _, rfl, rfl, by decide⟩⟩

theorem witness_SoundTimerSteps :
    (let s := State.turn (guarded.setSt 1) .tickSt
     s.nextAgent = .tickSt ∧ s.cfg.soundTimerGuarded = true ∧ s.runState = .running ∧ s.st ≠ 0) ∧
    (let s := State.turn (State.reset.setSt 1) .tickSt
     s.nextAgent = .tickSt ∧ s.cfg.soundTimerGuarded = false ∧ s.runState = .running ∧ s.st ≠ 0 ∧ s.stLatch = none) ∧
    (latched.nextAgent = .stWrite ∧ latched.cfg.soundTimerGuarded = false ∧ latched.stLatch = some 5) ∧
    (let s := State.turn State.reset .stWrite
     s.nextAgent = .stWrite ∧ s.cfg.soundTimerGuarded = false ∧ s.stLatch = none) ∧
    (State.turn guarded .tickSt).st = 0 ∧ (State.turn State.reset .tickSt).st = 0 := by decide

theorem witness_TimerAgentsTouchOnlyTimers :
    (∃ s t, s.nextAgent = .tickDt ∧ step s = .next t) ∧ (∃ s t, s.nextAgent = .tickSt ∧ step s = .next t) ∧
    (∃ s t, s.nextAgent = .stWrite ∧ step s = .next t) :=
  ⟨⟨State.turn (State.reset.setDt 1) .tickDt, _, rfl, rfl⟩, ⟨State.turn (State.reset.setSt 1) .tickSt, _, rfl, rfl⟩,
    ⟨latched, _, rfl, rfl⟩⟩

theorem witness_UnguardedSoundWriteIsLost :
    let s := State.reset.setSt 1
    s.cfg.soundTimerGuarded = false ∧ s.runState = .running ∧ s.stLatch = none ∧ s.st ≠ 0 := by decide

theorem witness_AtMostOneDecrementAfterStop :
    ∃ t, latched.Inv ∧ latched.runState ≠ .running ∧ (∀ image, .rst image ∉ latched.schedule) ∧
      Sys2Proof.core.run 1 latched = .next t ∧ t.st = latched.stLatch.getD latched.st - 1 :=
  ⟨_, latched_inv, by decide, fun _ h => by simp [latched, State.turn] at h, rfl, by decide⟩

theorem witness_ResetLoadsImage :
    (State.turn latched (.rst [0x60, 0x05])).nextAgent = .rst [0x60, 0x05] ∧ imageWellFormed [0x60, 0x05] = true ∧
    1 < [(0x60 : Byte), 0x05].length ∧ 2 * 0 + 1 < [(0x60 : Byte), 0x05].length := by decide

theorem witness_ResetClearsState :
    (State.turn latched (.rst [])).nextAgent = .rst [] ∧ imageWellFormed [] = true := by decide

/-- One byte, and one word too many. -/
theorem witness_ResetRefusesMalformedImage :
    ((State.turn State.reset (.rst [1])).nextAgent = .rst [1] ∧ [(1 : Byte)].length % 2 = 1) ∧
    ((State.turn State.reset (.rst (List.replicate 0xE02 0))).nextAgent = .rst (List.replicate 0xE02 0) ∧
      (List.replicate 0xE02 (0 : Byte)).length > 0xE00) :=
  ⟨by decide, rfl, by rw [List.length_replicate]; decide⟩

end Sys2Proof.Tests
end

section
/-! PROOFS. The encoding: how the fields of a word are read out of it (R86, R87). -/

namespace Sys2Proof.Proofs

open Sys2Proof

/-- The decoder's field read has R87's form: shift right, then mask with all ones of the field's width. -/
theorem setWidth_extractLsb'_eq_shift_and_mask (w : Word) (start len : Nat) :
    (w.extractLsb' start len).setWidth 16 = (w >>> start) &&& (BitVec.allOnes len).setWidth 16 := by
  ext i hi
  simp [Bool.and_comm]

/-- A field at the low end of the word takes the mask alone. -/
theorem setWidth_extractLsb'_zero_eq_mask (w : Word) (len : Nat) :
    (w.extractLsb' 0 len).setWidth 16 = w &&& (BitVec.allOnes len).setWidth 16 := by
  rw [setWidth_extractLsb'_eq_shift_and_mask, BitVec.ushiftRight_zero]

/-- Settles O4, field by field: every mask of R87 is all ones of its field's width. -/
theorem fieldsAreShiftsAndMasks : Obligations.FieldsAreShiftsAndMasks := by
  intro w
  have f := setWidth_extractLsb'_eq_shift_and_mask w 12 4
  have x := setWidth_extractLsb'_eq_shift_and_mask w 8 4
  have y := setWidth_extractLsb'_eq_shift_and_mask w 4 4
  have n := setWidth_extractLsb'_zero_eq_mask w 4
  have kk := setWidth_extractLsb'_zero_eq_mask w 8
  have nnn := setWidth_extractLsb'_zero_eq_mask w 12
  exact ⟨f, x, y, n, kk, nnn⟩

end Sys2Proof.Proofs
end

section
/-! PROOFS. Decoding and encoding are inverse (R87, R88, R90, R95): a word decodes to an instruction exactly when it is
that instruction's encoding. -/

namespace Sys2Proof.Proofs

open Sys2Proof

/-! ### The fields of a word in each format (R88) -/

@[simp] theorem fields_encodeNNN_f (f : Nibble) (nnn : Addr12) : (fields (encodeNNN f nnn)).f = f := by
  apply BitVec.eq_of_toNat_eq
  simp [fields, encodeNNN, Nat.shiftRight_eq_div_pow]
  omega

@[simp] theorem fields_encodeNNN_nnn (f : Nibble) (nnn : Addr12) : (fields (encodeNNN f nnn)).nnn = nnn := by
  apply BitVec.eq_of_toNat_eq
  simp [fields, encodeNNN]
  omega

theorem encodeNNN_fields {w : Word} {f : Nibble} (hf : (fields w).f = f) : encodeNNN f (fields w).nnn = w := by
  subst hf
  apply BitVec.eq_of_toNat_eq
  simp [fields, encodeNNN, Nat.shiftRight_eq_div_pow]
  omega

@[simp] theorem fields_encodeXKK_f (f : Nibble) (x : Reg) (kk : Byte) : (fields (encodeXKK f x kk)).f = f := by
  apply BitVec.eq_of_toNat_eq
  simp [fields, encodeXKK, Nat.shiftRight_eq_div_pow]
  omega

@[simp] theorem fields_encodeXKK_x (f : Nibble) (x : Reg) (kk : Byte) : regOf (fields (encodeXKK f x kk)).x = x := by
  ext
  simp [fields, encodeXKK, regOf, Nat.shiftRight_eq_div_pow]
  omega

@[simp] theorem fields_encodeXKK_kk (f : Nibble) (x : Reg) (kk : Byte) : (fields (encodeXKK f x kk)).kk = kk := by
  apply BitVec.eq_of_toNat_eq
  simp [fields, encodeXKK]
  omega

theorem encodeXKK_fields {w : Word} {f : Nibble} {kk : Byte} (hf : (fields w).f = f) (hk : (fields w).kk = kk) :
    encodeXKK f (regOf (fields w).x) kk = w := by
  subst hf hk
  apply BitVec.eq_of_toNat_eq
  simp [fields, encodeXKK, regOf, Nat.shiftRight_eq_div_pow]
  omega

@[simp] theorem fields_encodeXYN_f (f : Nibble) (x y : Reg) (n : Nibble) : (fields (encodeXYN f x y n)).f = f := by
  apply BitVec.eq_of_toNat_eq
  simp [fields, encodeXYN, Nat.shiftRight_eq_div_pow]
  omega

@[simp] theorem fields_encodeXYN_x (f : Nibble) (x y : Reg) (n : Nibble) :
    regOf (fields (encodeXYN f x y n)).x = x := by
  ext
  simp [fields, encodeXYN, regOf, Nat.shiftRight_eq_div_pow]
  omega

@[simp] theorem fields_encodeXYN_y (f : Nibble) (x y : Reg) (n : Nibble) :
    regOf (fields (encodeXYN f x y n)).y = y := by
  ext
  simp [fields, encodeXYN, regOf, Nat.shiftRight_eq_div_pow]
  omega

@[simp] theorem fields_encodeXYN_n (f : Nibble) (x y : Reg) (n : Nibble) : (fields (encodeXYN f x y n)).n = n := by
  apply BitVec.eq_of_toNat_eq
  simp [fields, encodeXYN]
  omega

theorem encodeXYN_fields {w : Word} {f n : Nibble} (hf : (fields w).f = f) (hn : (fields w).n = n) :
    encodeXYN f (regOf (fields w).x) (regOf (fields w).y) n = w := by
  subst hf hn
  apply BitVec.eq_of_toNat_eq
  simp [fields, encodeXYN, regOf, Nat.shiftRight_eq_div_pow]
  omega

/-! ### The two directions -/

/-- Every instruction's encoding decodes to it. -/
theorem decodeWord_encode (i : Instr) : decodeWord (encode i) = .ok i := by
  cases i with
  | cls | ret | halt => rfl
  | _ => simp [encode, decodeWord, decodeFamily8, decodeFamilyE, decodeFamilyF]

theorem encode_of_decodeFamily0 {w : Word} {i : Instr} (h : decodeFamily0 w = .ok i) : encode i = w := by
  unfold decodeFamily0 at h
  split at h <;> cases h <;> rfl

theorem encode_of_decodeFamily8 {w : Word} {i : Instr} (hf : (fields w).f = 0x8#4)
    (h : decodeFamily8 (fields w) = .ok i) : encode i = w := by
  unfold decodeFamily8 at h
  dsimp only at h
  split at h <;> rename_i hn <;> cases h <;> exact encodeXYN_fields hf hn

theorem encode_of_decodeFamilyE {w : Word} {i : Instr} (hf : (fields w).f = 0xE#4)
    (h : decodeFamilyE (fields w) = .ok i) : encode i = w := by
  unfold decodeFamilyE at h
  split at h <;> rename_i hk <;> cases h <;> exact encodeXKK_fields hf hk

theorem encode_of_decodeFamilyF {w : Word} {i : Instr} (hf : (fields w).f = 0xF#4)
    (h : decodeFamilyF (fields w) = .ok i) : encode i = w := by
  unfold decodeFamilyF at h
  dsimp only at h
  split at h <;> rename_i hk <;> cases h <;> exact encodeXKK_fields hf hk

/-- A word that names an instruction is that instruction's encoding, family by family. -/
theorem encode_of_decodeWord {w : Word} {i : Instr} (h : decodeWord w = .ok i) : encode i = w := by
  unfold decodeWord at h
  dsimp only at h
  split at h
  case h_1 => exact encode_of_decodeFamily0 h
  case h_2 hf | h_3 hf | h_11 hf | h_12 hf => cases h; exact encodeNNN_fields hf
  case h_4 hf | h_5 hf | h_7 hf | h_8 hf | h_13 hf => cases h; exact encodeXKK_fields hf rfl
  case h_6 hf | h_10 hf =>
    split at h <;> rename_i hn <;> cases h
    exact encodeXYN_fields hf hn
  case h_9 hf => exact encode_of_decodeFamily8 hf h
  case h_14 hf => cases h; exact encodeXYN_fields hf rfl
  case h_15 hf => exact encode_of_decodeFamilyE hf h
  case h_16 =>
    refine encode_of_decodeFamilyF ?_ h
    simp only [← BitVec.toNat_inj, BitVec.toNat_ofNat, imp_false] at *
    omega

/-- The one word of an instruction is the word of its format. -/
theorem encodedAs_of_encode {i : Instr} {w : Nat} (h : encode i = BitVec.ofNat 16 w) :
    Machine.EncodedAs i w := by
  intro v
  constructor
  · intro hv
    rw [← encode_of_decodeWord hv, h]
  · rintro rfl
    rw [← h, decodeWord_encode]

end Sys2Proof.Proofs
end

section
/-! PROOFS. Frames: how they compose, and the frame of each operation that the jumps, CALL, RET, HALT and CLS are
made of. -/

namespace Sys2Proof.Proofs

open Sys2Proof Sys2Proof.Machine

/-- One write after another changes only what either changes. -/
theorem changesOnly_trans {ps qs : List Part} {s t u : State} (hst : ChangesOnly ps s t) (htu : ChangesOnly qs t u) :
    ChangesOnly (ps ++ qs) s u := by
  intro p hp
  rw [List.mem_append, not_or] at hp
  have h1 := hst p hp.1
  have h2 := htu p hp.2
  cases p <;> exact Eq.trans h2 h1

theorem setPc_changesOnly (w : Word) (s : State) : ChangesOnly [.pc] s (s.setPc w) := by
  intro p hp
  cases p with
  | pc => simp at hp
  | _ => rfl

theorem emit_changesOnly (r : DispRequest) (s : State) : ChangesOnly [.dispOut] s (s.emit r) := by
  intro p hp
  cases p with
  | dispOut => simp at hp
  | _ => rfl

theorem retire_next_changesOnly (s : State) : ChangesOnly Part.flow s (s.retire .next) := by
  intro p hp
  cases p with
  | pc | outcome => simp [Part.flow] at hp
  | _ => rfl

theorem retire_jump_changesOnly (s : State) : ChangesOnly [.outcome] s (s.retire .jump) := by
  intro p hp
  cases p with
  | outcome => simp at hp
  | _ => rfl

theorem retire_halt_changesOnly (s : State) :
    ChangesOnly [.runState, .outcome, .postStopDt, .postStopSt] s (s.retire .halt) := by
  intro p hp
  cases p with
  | runState | outcome | postStopDt | postStopSt => simp at hp
  | _ => rfl

/-- A jump writes `PC` and consumes the outcome (R106). -/
theorem setPc_retire_jump_changesOnly (w : Word) (s : State) :
    ChangesOnly Part.flow s ((s.setPc w).retire .jump) :=
  changesOnly_trans (setPc_changesOnly w s) (retire_jump_changesOnly _)

end Sys2Proof.Proofs
end

section
/-! PROOFS. The return stack: what a push, a pop, CALL and RET do, and that an entry keeps its value for as long as it
stays in use (R29, R30, R121, R124, R127). -/

namespace Sys2Proof.Proofs

open Sys2Proof Sys2Proof.Machine

/-- A push with room writes the entry at the old `SP` and raises `SP`, nothing else (R29). -/
theorem push_spec {s : State} (w : Word) (h : s.sp.val < 16) :
    ∃ t, s.push w = .ok t ∧ t.stack[s.sp.val] = w ∧ t.sp.val = s.sp.val + 1 ∧
      ChangesOnly [.entry ⟨s.sp.val, h⟩, .sp] s t := by
  refine ⟨_, State.push_of_lt h, Vector.getElem_set_self h, rfl, fun p hp => ?_⟩
  cases p with
  | entry k =>
    have hk : s.sp.val ≠ k.val := fun e => hp (by simp [e])
    exact Vector.getElem_set_ne h k.isLt hk
  | sp => simp at hp
  | _ => rfl

/-- A pop with `k + 1` entries in use answers entry `k` and lowers `SP`, nothing else (R30). -/
theorem pop_spec {s : State} {k : Reg} (h : s.sp.val = k.val + 1) :
    ∃ t, s.pop = .ok (s.stack[k], t) ∧ t.sp.val = k.val ∧ ChangesOnly [.sp] s t := by
  refine ⟨{ s with sp := ⟨k.val, by omega⟩ }, ?_, rfl, fun p hp => ?_⟩
  · simp [State.pop_of_ne (s := s) (by omega), h]
  · cases p with
    | sp => simp at hp
    | _ => rfl

/-- CALL with room pushes the next slot's address and jumps (R124). -/
theorem exec_call_of_lt (nnn : Addr12) {s : State} (h : s.sp.val < 16) :
    ∃ t, exec (.call nnn) s = .next t ∧ t.stack[s.sp.val] = s.pc + 2 ∧ t.sp.val = s.sp.val + 1 ∧
      t.pc = addrWord nnn ∧ t.outcome = none ∧ ChangesOnly (.entry ⟨s.sp.val, h⟩ :: .sp :: Part.flow) s t := by
  obtain ⟨t, hpush, hentry, hsp, hframe⟩ := push_spec (s.pc + 2) h
  refine ⟨(t.setPc (addrWord nnn)).retire .jump, ?_, ?_, ?_, rfl, rfl,
    changesOnly_trans hframe (setPc_retire_jump_changesOnly _ t)⟩
  · simp only [exec, execCall, hpush]
  · simpa using hentry
  · simpa using hsp

theorem exec_call_full (nnn : Addr12) {s : State} (h : s.sp.val = 16) :
    exec (.call nnn) s = .next (s.takeFault .stackOverflow) := by
  simp only [exec, execCall, State.push_full (s := s) (by omega)]

/-- RET with entry `k` on top jumps to it (R121). -/
theorem exec_ret_of_sp {s : State} {k : Reg} (h : s.sp.val = k.val + 1) :
    ∃ t, exec .ret s = .next t ∧ t.pc = s.stack[k] ∧ t.sp.val = k.val ∧ t.outcome = none ∧
      ChangesOnly (.sp :: Part.flow) s t := by
  obtain ⟨t, hpop, hsp, hframe⟩ := pop_spec h
  refine ⟨(t.setPc s.stack[k]).retire .jump, ?_, rfl, ?_, rfl,
    changesOnly_trans hframe (setPc_retire_jump_changesOnly _ t)⟩
  · simp only [exec, execRet, hpop]
  · simpa using hsp

theorem exec_ret_empty {s : State} (h : s.sp.val = 0) : exec .ret s = .next (s.takeFault .stackUnderflow) := by
  simp only [exec, execRet, State.pop_empty h]

/-! ### Entries in use -/

@[simp] theorem storeBlock_stack (bs : List Byte) (a : Nat) (s : State) : (State.storeBlock bs a s).1.stack = s.stack := by
  rw [State.storeBlock_mem_only]

@[simp] theorem loadBlock_stack (rs : List Reg) (a : Nat) (s : State) : (State.loadBlock rs a s).1.stack = s.stack := by
  rw [State.loadBlock_v_only]

/-- An instruction leaves every entry in use as it is: only CALL writes one, and that one is not in use yet. -/
theorem exec_keeps_entry {i : Instr} {s t : State} (h : exec i s = .next t) {k : Reg} (hk : k.val < s.sp.val) :
    t.stack[k] = s.stack[k] := by
  cases exec_cases h with
  | call nnn hroom => exact Vector.getElem_set_ne hroom k.isLt (by omega)
  | _ => simp

theorem rst_sp (image : List Byte) (s : State) : (s.rst image).sp = 0 := by
  unfold State.rst
  split
  · rw [State.loadImage_mem_only]; rfl
  · rfl

theorem tickDt_stack (s : State) : s.tickDt.stack = s.stack := by
  unfold State.tickDt
  split_ifs <;> rfl

theorem tickSt_stack (s : State) : s.tickSt.stack = s.stack := by
  unfold State.tickSt
  split_ifs
  · rfl
  · split <;> rfl
  · rfl
  · rfl

theorem stWrite_stack (s : State) : s.stWrite.stack = s.stack := by
  unfold State.stWrite
  split_ifs
  · rfl
  · split <;> rfl

/-- A step of any agent leaves an entry as it is that is in use before and after it; the second excludes the reset,
which empties the stack. -/
theorem step_keeps_entry {s t : State} (h : step s = .next t) {k : Reg} (hs : k.val < s.sp.val) (ht : k.val < t.sp.val) :
    t.stack[k] = s.stack[k] := by
  obtain ⟨-, -, ⟨-, rfl⟩ | ⟨-, w, -, ⟨r, -, rfl⟩ | ⟨i, -, hexec⟩⟩⟩ | ⟨-, rfl⟩ | ⟨-, rfl⟩ | ⟨-, rfl⟩ | ⟨image, -, rfl⟩ :=
    step_cases h
  · rfl
  · rfl
  · exact exec_keeps_entry hexec hs
  · rw [tickDt_stack, State.popSchedule_stack]
  · rw [tickSt_stack, State.popSchedule_stack]
  · rw [stWrite_stack, State.popSchedule_stack]
  · simp [rst_sp] at ht

/-- The first state of a run has the entries in use that the run keeps in use. -/
theorem le_sp_of_runsAbove {k n : Nat} {s t : State} (h : RunsAbove k n s t) : k ≤ s.sp.val := by
  cases n with
  | zero => obtain ⟨rfl, hk⟩ := h; exact hk
  | succ n => exact h.1

/-- A run that keeps entry `k` in use keeps its value. -/
theorem runsAbove_keeps_entry {n : Nat} {k : Reg} {s t : State} (h : RunsAbove (k.val + 1) n s t) :
    t.stack[k] = s.stack[k] := by
  induction n generalizing s with
  | zero => obtain ⟨rfl, -⟩ := h; rfl
  | succ n ih =>
    obtain ⟨hs, u, hstep, hrun⟩ := h
    calc t.stack[k] = u.stack[k] := ih hrun
      _ = s.stack[k] := step_keeps_entry hstep hs (le_sp_of_runsAbove hrun)

/-- Settles O24: the entry that CALL pushed keeps its value by induction on the run, so RET reads it back. -/
theorem callReturnRoundTrip : Obligations.CallReturnRoundTrip := by
  intro nnn s t u n hroom hcall hrun hu
  obtain ⟨t', hcall', hentry, -⟩ := exec_call_of_lt nnn hroom
  obtain rfl : t' = t := by simpa [hcall'] using hcall
  let k : Reg := ⟨s.sp.val, hroom⟩
  obtain ⟨r, hret, hpc, hsp, -⟩ := exec_ret_of_sp (s := u) (k := k) hu
  refine ⟨r, hret, ?_, Fin.ext hsp⟩
  calc r.pc = u.stack[k] := hpc
    _ = t'.stack[k] := runsAbove_keeps_entry (k := k) hrun
    _ = s.pc + 2 := hentry

/-- Settles O22: with room the push and the jump, with a full stack the fault. -/
theorem callPushesReturnAddress : Obligations.CallPushesReturnAddress := by
  intro nnn s
  refine ⟨encodedAs_of_encode rfl, fun hroom => ?_, fun hfull => ?_⟩
  · obtain ⟨t, hexec, hentry, hsp, hpc, hout, hframe⟩ := exec_call_of_lt nnn hroom
    exact ⟨t, hexec, hentry, hsp, by rw [hpc, addrWord_toNat], hout, hframe⟩
  · exact ⟨_, exec_call_full nnn hfull, takesFault_takeFault _ s⟩

/-- Settles O23: with an entry in use the pop and the jump, with an empty stack the fault. -/
theorem returnPopsAddress : Obligations.ReturnPopsAddress := by
  intro s
  refine ⟨encodedAs_of_encode rfl, fun k hsp => exec_ret_of_sp hsp, fun hempty => ?_⟩
  exact ⟨_, exec_ret_empty hempty, takesFault_takeFault _ s⟩

end Sys2Proof.Proofs
end

section
/-! PROOFS. The jumps, HALT and CLS (R120, R122, R123, R125). -/

namespace Sys2Proof.Proofs

open Sys2Proof Sys2Proof.Machine

/-- A fetch past memory faults in the state whose schedule has given up its entry (R103). -/
theorem step_fetch_fault {s : State} (hrun : s.runState = .running) (hloop : s.nextAgent = .loop)
    (hpc : s.pc.toNat > 0xFFE) : step s = .next (s.popSchedule.takeFault .outOfBoundsMemoryAccess) := by
  have hfetch : s.popSchedule.fetch = .error .outOfBoundsMemoryAccess :=
    State.fetch_fault (by simp only [State.popSchedule_pc]; omega)
  simp only [step, hloop, agentStep, loopStep, State.popSchedule_runState, hrun, hfetch]

/-- The sum of JP V0, nnn does not wrap: it is at most 0x10FE (R125). -/
theorem addrWord_add_byteWord_toNat (nnn : Addr12) (b : Byte) :
    (addrWord nnn + byteWord b).toNat = nnn.toNat + b.toNat := by
  have := nnn.isLt
  have := b.isLt
  rw [BitVec.toNat_add, addrWord_toNat, byteWord_toNat]
  omega

/-- Settles O21: the targets are exact sums, and the fault of a target past memory is the next fetch's. -/
theorem jumpTargetsAreExact : Obligations.JumpTargetsAreExact := by
  intro nnn s
  refine ⟨encodedAs_of_encode rfl, encodedAs_of_encode rfl, ?_, ?_, fun t _ hrun hloop hpc => ?_⟩
  · exact ⟨_, rfl, addrWord_toNat nnn, rfl, setPc_retire_jump_changesOnly _ s⟩
  · exact ⟨_, rfl, addrWord_add_byteWord_toNat nnn (s.getV 0), rfl, setPc_retire_jump_changesOnly _ s⟩
  · exact ⟨_, step_fetch_fault hrun hloop hpc, takesFault_takeFault _ _⟩

/-- Settles O25: HALT only retires with the outcome `halt`. -/
theorem haltStopsTheRun : Obligations.HaltStopsTheRun := by
  intro s
  exact ⟨encodedAs_of_encode rfl, s.retire .halt, rfl, rfl, rfl, rfl, rfl, rfl, retire_halt_changesOnly s⟩

/-- Settles O26: CLS emits its request, then moves to the next slot. -/
theorem clearEmitsRequest : Obligations.ClearEmitsRequest := by
  intro s
  exact ⟨encodedAs_of_encode rfl, (s.emit .clear).retire .next, rfl, rfl, ⟨rfl, rfl⟩,
    changesOnly_trans (emit_changesOnly .clear s) (retire_next_changesOnly _)⟩

end Sys2Proof.Proofs
end

section
/-! PROOFS. The conditional skips: what `skipIf` does on each outcome of its condition, and the four skips that compare
a register (R106, R140-R143). -/

namespace Sys2Proof.Proofs

open Sys2Proof Sys2Proof.Machine

theorem retire_skip_changesOnly (s : State) : ChangesOnly Part.flow s (s.retire .skip) := by
  intro p hp
  cases p with
  | pc | outcome => simp [Part.flow] at hp
  | _ => rfl

/-- A skip whose condition is decided by `c`: SKIP where `hit` holds, NEXT where `miss` does, and no other write. -/
theorem skipIf_spec {c : Bool} {hit miss : Prop} (hskip : hit → c = true) (hnext : miss → c = false) (s : State) :
    ∃ t, skipIf c s = .next t ∧ (hit → SkipSlot s t) ∧ (miss → NextSlot s t) ∧ ChangesOnly Part.flow s t := by
  cases c with
  | true => exact ⟨s.retire .skip, rfl, fun _ => ⟨rfl, rfl⟩, fun h => (nomatch hnext h), retire_skip_changesOnly s⟩
  | false => exact ⟨s.retire .next, rfl, fun h => (nomatch hskip h), fun _ => ⟨rfl, rfl⟩, retire_next_changesOnly s⟩

/-- A skip on equality of two bytes. -/
theorem skipIf_beq_spec (a b : Byte) (s : State) :
    ∃ t, skipIf (a == b) s = .next t ∧ (a = b → SkipSlot s t) ∧ (a ≠ b → NextSlot s t) ∧
      ChangesOnly Part.flow s t :=
  skipIf_spec beq_iff_eq.mpr beq_eq_false_iff_ne.mpr s

/-- A skip on inequality of two bytes. -/
theorem skipIf_bne_spec (a b : Byte) (s : State) :
    ∃ t, skipIf (a != b) s = .next t ∧ (a ≠ b → SkipSlot s t) ∧ (a = b → NextSlot s t) ∧
      ChangesOnly Part.flow s t :=
  skipIf_spec bne_iff_ne.mpr bne_eq_false_iff_eq.mpr s

/-- Settles O19: SE skips on equality of `V[x]` and `kk`, SNE on inequality. -/
theorem skipOnImmediate : Obligations.SkipOnImmediate := by
  intro x kk s
  have hse := skipIf_beq_spec (s.getV x) kk s
  have hsne := skipIf_bne_spec (s.getV x) kk s
  exact ⟨encodedAs_of_encode rfl, encodedAs_of_encode rfl, hse, hsne⟩

/-- Settles O20: SE skips on equality of `V[x]` and `V[y]`, SNE on inequality. -/
theorem skipOnRegisters : Obligations.SkipOnRegisters := by
  intro x y s
  have hse := skipIf_beq_spec (s.getV x) (s.getV y) s
  have hsne := skipIf_bne_spec (s.getV x) (s.getV y) s
  exact ⟨encodedAs_of_encode rfl, encodedAs_of_encode rfl, hse, hsne⟩

end Sys2Proof.Proofs
end

section
/-! PROOFS. The two ways an arithmetic or logic instruction ends, with a result alone or with a result and a flag; the
flag of each operation as a number (R160, R161, R166, R167). -/

namespace Sys2Proof.Proofs

open Sys2Proof Sys2Proof.Machine

/-! ### Writing a result and a flag -/

theorem setV_changesOnly (x : Reg) (b : Byte) (s : State) : ChangesOnly [.v x] s (s.setV x b) := by
  intro p hp
  cases p with
  | v r =>
    have hr : r ≠ x := fun e => hp (by simp [e])
    exact (State.getV_setV s x r b).trans (if_neg hr)
  | _ => rfl

/-- A result without a flag: `V[x]` takes it, the next slot, no other write. -/
theorem writeResult_spec (x : Reg) (r : Byte) (s : State) :
    ∃ t, writeResult x r s = .next t ∧ t.getV x = r ∧ NextSlot s t ∧ ChangesOnly (.v x :: Part.flow) s t :=
  ⟨(s.setV x r).retire .next, rfl, by simp, ⟨rfl, rfl⟩,
    changesOnly_trans (setV_changesOnly x r s) (retire_next_changesOnly _)⟩

/-- A result with a flag: VF takes the flag, whatever `x` is, and any other `V[x]` the result (R166). -/
theorem writeResultFlag_spec (x : Reg) (r flag : Byte) (s : State) :
    ∃ t, writeResultFlag x r flag s = .next t ∧ t.getV 15 = flag ∧ (x ≠ 15 → t.getV x = r) ∧ NextSlot s t ∧
      ChangesOnly (.v x :: .v 15 :: Part.flow) s t := by
  refine ⟨((s.setV x r).setV 15 flag).retire .next, rfl, by simp, fun hx => ?_, ⟨rfl, rfl⟩, ?_⟩
  · simp [State.getV_setV _ 15 x, hx]
  · exact changesOnly_trans (setV_changesOnly x r s)
      (changesOnly_trans (setV_changesOnly 15 flag _) (retire_next_changesOnly _))

/-! ### The flags as numbers (R167) -/

theorem flagByte_toNat (b : Bool) : (flagByte b).toNat = b.toNat := by cases b <;> rfl

theorem flagByte_decide (p : Prop) [Decidable p] : flagByte (decide p) = if p then 1 else 0 := by
  simp only [flagByte, decide_eq_true_eq]

theorem flagAdd_eq (vx vy : Byte) : flagAdd vx vy = if vx.toNat > 128 ∧ vy.toNat > 128 then 1 else 0 := by
  rw [flagAdd, ← Bool.decide_and, flagByte_decide]

/-- A shift's flag is a bit of the operand, and bit `i` of a byte is `vx / 2 ^ i % 2`. -/
theorem flagByte_getLsbD_toNat (vx : Byte) (i : Nat) : (flagByte (vx.getLsbD i)).toNat = vx.toNat / 2 ^ i % 2 := by
  rw [flagByte_toNat, BitVec.getLsbD, Nat.toNat_testBit]

theorem flagShr_toNat (vx : Byte) : (flagShr vx).toNat = vx.toNat % 2 := by
  rw [flagShr, flagByte_getLsbD_toNat, pow_zero, Nat.div_one]

theorem flagShl_toNat (vx : Byte) : (flagShl vx).toNat = vx.toNat / 128 := by
  have := vx.isLt
  rw [flagShl, flagByte_getLsbD_toNat]
  omega

/-! ### The obligations -/

/-- Settles O14: VF takes the operation's flag, and each flag is the function of `vx` and `vy` in R167's table. -/
theorem flagTable : Obligations.FlagTable := by
  intro x y s _
  have hflag (r flag : Byte) : ∃ t, writeResultFlag x r flag s = .next t ∧ t.getV 15 = flag := by
    obtain ⟨t, ht, hvf, -⟩ := writeResultFlag_spec x r flag s
    exact ⟨t, ht, hvf⟩
  refine ⟨encodedAs_of_encode rfl, ?add, encodedAs_of_encode rfl, ?sub, encodedAs_of_encode rfl, ?shr,
    encodedAs_of_encode rfl, ?subn, encodedAs_of_encode rfl, ?shl⟩
  case add =>
    rw [← flagAdd_eq]
    exact hflag (s.getV x + s.getV y) _
  case sub =>
    rw [← flagByte_decide]
    exact hflag (s.getV x - s.getV y) _
  case shr =>
    rw [← flagShr_toNat]
    simp only [BitVec.toNat_inj]
    exact hflag (s.getV x >>> 1) _
  case subn =>
    rw [← flagByte_decide]
    exact hflag (s.getV y - s.getV x) _
  case shl =>
    rw [← flagShl_toNat]
    simp only [BitVec.toNat_inj]
    exact hflag (s.getV x <<< 1) _

/-- Settles O11: LD Vx, kk ends with `kk` as its result. -/
theorem loadImmediate : Obligations.LoadImmediate := by
  intro x kk s
  exact ⟨encodedAs_of_encode rfl, writeResult_spec x kk s⟩

/-- Settles O12: the byte sum is the sum mod 256, written as a result without a flag. -/
theorem addImmediateWrapsWithoutFlag : Obligations.AddImmediateWrapsWithoutFlag := by
  intro x kk s
  obtain ⟨t, hexec, hx, hrest⟩ := writeResult_spec x (s.getV x + kk) s
  exact ⟨encodedAs_of_encode rfl, t, hexec, by rw [hx, BitVec.toNat_add], hrest⟩

end Sys2Proof.Proofs
end

section
/-! PROOFS. The address register and the timers: LD I, ADD I, LD F, LD Vx, DT, LD DT and LD ST (R190-R195). -/

namespace Sys2Proof.Proofs

open Sys2Proof Sys2Proof.Machine

/-- A word of format XSUB, its fixed bits first (R88). -/
theorem encodedAs_of_encodeXKK {i : Instr} {f : Nibble} {x : Reg} {kk : Byte} {w : Nat}
    (hi : encode i = encodeXKK f x kk) (hw : w = f.toNat * 0x1000 + kk.toNat) : EncodedAs i (w + x.val * 0x100) := by
  apply encodedAs_of_encode
  rw [hi, hw, encodeXKK, Nat.add_right_comm]

theorem setI_changesOnly (w : Word) (s : State) : ChangesOnly [.i] s (s.setI w) := by
  intro p hp
  cases p with
  | i => simp at hp
  | _ => rfl

theorem setDt_changesOnly (b : Byte) (s : State) : ChangesOnly [.dt] s (s.setDt b) := by
  intro p hp
  cases p with
  | dt => simp at hp
  | _ => rfl

theorem setSt_changesOnly (b : Byte) (s : State) : ChangesOnly [.st] s (s.setSt b) := by
  intro p hp
  cases p with
  | st => simp at hp
  | _ => rfl

/-- A write of `I` before the next slot changes nothing beside them (R190, R194, R195). -/
theorem setI_retire_next_changesOnly (w : Word) (s : State) :
    ChangesOnly (.i :: Part.flow) s ((s.setI w).retire .next) :=
  changesOnly_trans (setI_changesOnly w s) (retire_next_changesOnly _)

/-- The address register's sum is mod 65536 (R194). -/
theorem add_byteWord_toNat (w : Word) (b : Byte) : (w + byteWord b).toNat = (w.toNat + b.toNat) % 65536 := by
  rw [BitVec.toNat_add, byteWord_toNat]

/-- The greatest glyph address, 5 * 15, fits a word (R195). -/
theorem glyphAddr_toNat (b : Byte) : (glyphAddr b).toNat = 5 * (b.toNat % 16) := by
  rw [glyphAddr, BitVec.toNat_ofNat]
  omega

/-- Settles O27: LD I writes `I`, then moves to the next slot. -/
theorem loadAddressRegister : Obligations.LoadAddressRegister := by
  intro nnn s
  exact ⟨encodedAs_of_encode rfl, _, rfl, addrWord_toNat nnn, ⟨rfl, rfl⟩, setI_retire_next_changesOnly _ s⟩

/-- Settles O28: both write `I` only, one with the sum and one with the glyph's address. -/
theorem addressRegisterArithmetic : Obligations.AddressRegisterArithmetic := by
  intro x s
  refine ⟨encodedAs_of_encodeXKK rfl rfl, encodedAs_of_encodeXKK rfl rfl, ?_, ?_⟩
  · exact ⟨_, rfl, add_byteWord_toNat s.i (s.getV x), ⟨rfl, rfl⟩, setI_retire_next_changesOnly _ s⟩
  · exact ⟨_, rfl, glyphAddr_toNat (s.getV x), ⟨rfl, rfl⟩, setI_retire_next_changesOnly _ s⟩

/-- Settles O29: the read ends with `DT` as its result, the write is the one of `setDt`. -/
theorem delayTimerAccess : Obligations.DelayTimerAccess := by
  intro x s
  refine ⟨encodedAs_of_encodeXKK rfl rfl, encodedAs_of_encodeXKK rfl rfl, writeResult_spec x s.dt s, ?_⟩
  exact ⟨(s.setDt (s.getV x)).retire .next, rfl, rfl, ⟨rfl, rfl⟩,
    changesOnly_trans (setDt_changesOnly _ s) (retire_next_changesOnly _)⟩

/-- Settles O30: the one write is to `ST`, so the frame holds the latch. -/
theorem soundTimerWrite : Obligations.SoundTimerWrite := by
  intro x s
  exact ⟨encodedAs_of_encodeXKK rfl rfl, (s.setSt (s.getV x)).retire .next, rfl, rfl, ⟨rfl, rfl⟩,
    changesOnly_trans (setSt_changesOnly _ s) (retire_next_changesOnly _)⟩

end Sys2Proof.Proofs
end

section
/-! PROOFS. Block transfers: what a block store and a block load move and leave as it is, in bounds and past memory, and
the three instructions made of them (R65, R203, R205, R207). -/

namespace Sys2Proof.Proofs

open Sys2Proof Sys2Proof.Machine

/-! ### The end of a transfer -/

/-- A transfer that reports no fault moves to the next slot and changes nothing else beside what it moved. -/
theorem finishBlock_of_none {r : State × Option FaultKind} {ps : List Part} {s : State} (hr : r.2 = none)
    (hframe : ChangesOnly ps s r.1) (hpc : .pc ∉ ps) :
    finishBlock r = .next (r.1.retire .next) ∧ NextSlot s (r.1.retire .next) ∧
      ChangesOnly (ps ++ Part.flow) s (r.1.retire .next) := by
  obtain ⟨u, k⟩ := r
  obtain rfl : k = none := hr
  have hkept : u.pc = s.pc := hframe .pc hpc
  exact ⟨rfl, ⟨by rw [State.retire_pc, hkept], rfl⟩, changesOnly_trans hframe (retire_next_changesOnly u)⟩

/-- A transfer that reports a fault takes it and changes nothing else beside what it moved before (R65). -/
theorem finishBlock_of_some {r : State × Option FaultKind} {k : FaultKind} {ps : List Part} {s : State}
    (hr : r.2 = some k) (hframe : ChangesOnly ps s r.1) :
    finishBlock r = .next (r.1.takeFault k) ∧ FaultRecorded k (r.1.takeFault k) ∧
      ChangesOnly (ps ++ Part.fault) s (r.1.takeFault k) := by
  obtain ⟨u, k'⟩ := r
  obtain rfl : k' = some k := hr
  obtain ⟨hrec, hrest⟩ := takesFault_takeFault k u
  exact ⟨rfl, hrec, changesOnly_trans hframe hrest⟩

/-! ### The block store -/

/-- Byte `k` of the block is stored where its address is in memory. -/
theorem storeBlock_readByte_getElem {bs : List Byte} {a k : Nat} (s : State) (hk : k < bs.length)
    (hmem : a + k < 4096) :
    (State.storeBlock bs a s).1.readByte (a + k) = bs[k] := by
  rw [State.storeBlock_readByte, dif_pos ⟨by omega, by omega, hmem⟩]
  simp only [Nat.add_sub_cancel_left]

/-- A block store writes the bytes of its block that are in memory, nothing else. -/
theorem storeBlock_changesOnly (bs : List Byte) (a : Nat) (s : State) :
    ChangesOnly (Part.bytes a (min bs.length (4096 - a))) s (State.storeBlock bs a s).1 := by
  intro p hp
  cases p with
  | byte c =>
    refine (State.storeBlock_readByte bs a s c).trans (dif_neg fun hc => hp ?_)
    exact (mem_bytes _ _ _).mpr ⟨c - a, by omega, congrArg Part.byte (by omega)⟩
  | _ => rw [State.storeBlock_mem_only]; rfl

/-- A block store in bounds completes: every byte is stored, no other part but the flow changes. -/
theorem finishBlock_storeBlock_in_bounds {bs : List Byte} {a : Nat} (s : State) (h : a + bs.length ≤ 4096) :
    ∃ t, finishBlock (State.storeBlock bs a s) = .next t ∧
      (∀ k (hk : k < bs.length), t.readByte (a + k) = bs[k]) ∧
      NextSlot s t ∧ ChangesOnly (Part.bytes a bs.length ++ Part.flow) s t := by
  have hfault : (State.storeBlock bs a s).2 = none := by rw [State.storeBlock_fault, if_pos (.inr h)]
  have hframe := storeBlock_changesOnly bs a s
  rw [Nat.min_eq_left (by omega)] at hframe
  obtain ⟨hfinish, hnext, hrest⟩ := finishBlock_of_none hfault hframe (by simp)
  refine ⟨_, hfinish, fun k hk => ?_, hnext, hrest⟩
  rw [State.retire_readByte, storeBlock_readByte_getElem s hk (by omega)]

/-- A block store past memory faults: the bytes in memory are stored, no other part but the fault's changes (R65). -/
theorem finishBlock_storeBlock_past_memory {bs : List Byte} {a : Nat} (s : State) (hne : bs ≠ [])
    (h : a + bs.length > 4096) :
    ∃ t, finishBlock (State.storeBlock bs a s) = .next t ∧ FaultRecorded .outOfBoundsMemoryAccess t ∧
      (∀ k (hk : k < bs.length), a + k ≤ 0xFFF → t.readByte (a + k) = bs[k]) ∧
      ChangesOnly (Part.bytes a (4096 - a) ++ Part.fault) s t := by
  have hfault : (State.storeBlock bs a s).2 = some .outOfBoundsMemoryAccess := by
    rw [State.storeBlock_fault, if_neg (not_or.mpr ⟨hne, by omega⟩)]
  have hframe := storeBlock_changesOnly bs a s
  rw [Nat.min_eq_right (by omega)] at hframe
  obtain ⟨hfinish, hrec, hrest⟩ := finishBlock_of_some hfault hframe
  refine ⟨_, hfinish, hrec, fun k hk hmem => ?_, hrest⟩
  rw [State.takeFault_readByte, storeBlock_readByte_getElem s hk (by omega)]

/-! ### The block load -/

/-- A block load of `V[0]` to `V[x]`: each of them whose byte is in memory takes it, every other register is kept. -/
theorem loadBlock_regsUpTo_getV (x k : Reg) (a : Nat) (s : State) :
    (State.loadBlock (regsUpTo x) a s).1.getV k =
      if k ≤ x ∧ a + k.val ≤ 0xFFF then s.readByte (a + k.val) else s.getV k := by
  by_cases hx : k ≤ x
  · obtain ⟨hlen, hget⟩ := List.getElem?_eq_some_iff.mp (regsUpTo_getElem x k hx)
    have hload := State.loadBlock_getV (regsUpTo x) (regsUpTo_nodup x) a s k.val hlen
    simpa [hget, hx, Nat.lt_succ_iff] using hload
  · rw [State.loadBlock_getV_other _ a s (mt (mem_regsUpTo x k).mp hx), if_neg (fun h => hx h.1)]

/-- A block load writes the registers it loads, nothing else. -/
theorem loadBlock_regsUpTo_changesOnly (x : Reg) (a : Nat) (s : State) :
    ChangesOnly (Part.regs fun k => decide (k ≤ x ∧ a + k.val ≤ 0xFFF)) s (State.loadBlock (regsUpTo x) a s).1 := by
  intro p hp
  cases p with
  | v k =>
    refine (loadBlock_regsUpTo_getV x k a s).trans (if_neg fun hk => hp ?_)
    exact (mem_regs _ _).mpr ⟨k, decide_eq_true hk, rfl⟩
  | _ => rw [State.loadBlock_v_only]; rfl

/-- LD Vx, [I] in bounds (R207). -/
theorem exec_ldVxMem_in_bounds {x : Reg} {s : State} (h : s.blockBase + x.val ≤ 0xFFF) :
    ∃ t, exec (.ldVxMem x) s = .next t ∧ (∀ k : Reg, k ≤ x → t.getV k = s.readByte (s.blockBase + k.val)) ∧
      NextSlot s t ∧ ChangesOnly (Part.regs (fun k => decide (k ≤ x)) ++ Part.flow) s t := by
  have hfault : (State.loadBlock (regsUpTo x) s.blockBase s).2 = none := by
    rw [State.loadBlock_fault, regsUpTo_length, if_pos (.inr (by omega))]
  have hmem (k : Reg) (hk : k ≤ x) : s.blockBase + k.val ≤ 0xFFF := (Nat.add_le_add_left hk _).trans h
  have hframe := loadBlock_regsUpTo_changesOnly x s.blockBase s
  simp only [and_iff_left_of_imp (hmem _)] at hframe
  obtain ⟨hfinish, hnext, hrest⟩ := finishBlock_of_none hfault hframe (by simp)
  refine ⟨_, hfinish, fun k hk => ?_, hnext, hrest⟩
  rw [State.retire_getV, loadBlock_regsUpTo_getV, if_pos ⟨hk, hmem k hk⟩]

/-- LD Vx, [I] past memory (R65, R207). -/
theorem exec_ldVxMem_past_memory {x : Reg} {s : State} (h : s.blockBase + x.val > 0xFFF) :
    ∃ t, exec (.ldVxMem x) s = .next t ∧ FaultRecorded .outOfBoundsMemoryAccess t ∧
      (∀ k : Reg, k ≤ x → s.blockBase + k.val ≤ 0xFFF → t.getV k = s.readByte (s.blockBase + k.val)) ∧
      ChangesOnly (Part.regs (fun k => decide (k ≤ x ∧ s.blockBase + k.val ≤ 0xFFF)) ++ Part.fault) s t := by
  have hne : regsUpTo x ≠ [] := List.ne_nil_of_length_pos (by simp)
  have hfault : (State.loadBlock (regsUpTo x) s.blockBase s).2 = some .outOfBoundsMemoryAccess := by
    rw [State.loadBlock_fault, regsUpTo_length, if_neg (not_or.mpr ⟨hne, by omega⟩)]
  obtain ⟨hfinish, hrec, hrest⟩ := finishBlock_of_some hfault (loadBlock_regsUpTo_changesOnly x s.blockBase s)
  refine ⟨_, hfinish, hrec, fun k hk hmem => ?_, hrest⟩
  rw [State.takeFault_getV, loadBlock_regsUpTo_getV, if_pos ⟨hk, hmem⟩]

/-! ### LD [I], Vx -/

/-- Byte `k` of the block that LD [I], Vx stores is `V[k]`. -/
theorem regsUpTo_map_getElem {x k : Reg} (f : Reg → Byte) (hk : k ≤ x) (hlen : k.val < ((regsUpTo x).map f).length) :
    ((regsUpTo x).map f)[k.val] = f k := by
  rw [List.getElem_eq_iff, List.getElem?_map, regsUpTo_getElem x k hk, Option.map_some]

/-- LD [I], Vx in bounds (R205). -/
theorem exec_ldMemVx_in_bounds {x : Reg} {s : State} (h : s.blockBase + x.val ≤ 0xFFF) :
    ∃ t, exec (.ldMemVx x) s = .next t ∧ (∀ k : Reg, k ≤ x → t.readByte (s.blockBase + k.val) = s.getV k) ∧
      NextSlot s t ∧ ChangesOnly (Part.bytes s.blockBase (x.val + 1) ++ Part.flow) s t := by
  have hlen : ((regsUpTo x).map s.getV).length = x.val + 1 := by simp
  obtain ⟨t, hexec, hbytes, hnext, hframe⟩ :=
    finishBlock_storeBlock_in_bounds (bs := (regsUpTo x).map s.getV) (a := s.blockBase) s (by omega)
  rw [hlen] at hframe
  refine ⟨t, hexec, fun k hk => ?_, hnext, hframe⟩
  rw [hbytes k.val (hlen ▸ Nat.lt_succ_of_le hk), regsUpTo_map_getElem s.getV hk]

/-- LD [I], Vx past memory (R65, R205). -/
theorem exec_ldMemVx_past_memory {x : Reg} {s : State} (h : s.blockBase + x.val > 0xFFF) :
    ∃ t, exec (.ldMemVx x) s = .next t ∧ FaultRecorded .outOfBoundsMemoryAccess t ∧
      (∀ k : Reg, k ≤ x → s.blockBase + k.val ≤ 0xFFF → t.readByte (s.blockBase + k.val) = s.getV k) ∧
      ChangesOnly (Part.bytes s.blockBase (0x1000 - s.blockBase) ++ Part.fault) s t := by
  have hlen : ((regsUpTo x).map s.getV).length = x.val + 1 := by simp
  obtain ⟨t, hexec, hrec, hbytes, hframe⟩ :=
    finishBlock_storeBlock_past_memory (bs := (regsUpTo x).map s.getV) (a := s.blockBase) s
      (List.ne_nil_of_length_pos (by omega)) (by omega)
  refine ⟨t, hexec, hrec, fun k hk hmem => ?_, hframe⟩
  rw [hbytes k.val (hlen ▸ Nat.lt_succ_of_le hk) hmem, regsUpTo_map_getElem s.getV hk]

/-- Settles O32: the block store of `V[0]` to `V[x]` completes. -/
theorem blockStoreCompletes : Obligations.BlockStoreCompletes := fun _ =>
  ⟨encodedAs_of_encodeXKK rfl rfl, fun _ h => exec_ldMemVx_in_bounds h⟩

/-- Settles O33: the block load of `V[0]` to `V[x]` completes. -/
theorem blockLoadCompletes : Obligations.BlockLoadCompletes := fun _ =>
  ⟨encodedAs_of_encodeXKK rfl rfl, fun _ h => exec_ldVxMem_in_bounds h⟩

/-- Settles O34: both transfers fault at the first address past memory and keep what they moved before. -/
theorem blockTransferFaultsPastMemory : Obligations.BlockTransferFaultsPastMemory := fun _ _ h =>
  ⟨exec_ldMemVx_past_memory h, exec_ldVxMem_past_memory h⟩

/-! ### Reading back what was stored -/

/-- The next state of LD [I], Vx in bounds: `I` is kept, `PC` moves one slot, and the registers stand at `I`. -/
theorem exec_ldMemVx_next {x : Reg} {s t : State} (h : s.blockBase + x.val ≤ 0xFFF)
    (hexec : exec (.ldMemVx x) s = .next t) :
    t.i = s.i ∧ t.pc = s.pc + 2 ∧ ∀ k : Reg, k ≤ x → t.readByte (s.blockBase + k.val) = s.getV k := by
  obtain ⟨t', hexec', hbytes, ⟨hpc, -⟩, hframe⟩ := exec_ldMemVx_in_bounds h
  obtain rfl : t' = t := by simpa [hexec'] using hexec
  exact ⟨hframe .i (by simp [Part.flow]), hpc, hbytes⟩

/-- Settles O35: the load's bytes are the stored ones, since a byte is read out of memory and configuration alone. -/
theorem blockStoreThenLoadRestores : Obligations.BlockStoreThenLoadRestores := by
  intro x s t u hbound hstore hmem hcfg hi
  obtain ⟨hti, -, hbytes⟩ := exec_ldMemVx_next hbound hstore
  have hbase : u.blockBase = s.blockBase := by rw [State.blockBase, hi, hti, State.blockBase]
  have hread (c : Nat) : u.readByte c = t.readByte c := by rw [State.readByte, hmem, hcfg, State.readByte]
  obtain ⟨r, hload, hregs, -⟩ := exec_ldVxMem_in_bounds (x := x) (s := u) (by rw [hbase]; exact hbound)
  refine ⟨r, hload, fun k hk => ?_⟩
  calc r.getV k = u.readByte (u.blockBase + k.val) := hregs k hk
    _ = t.readByte (s.blockBase + k.val) := by rw [hread, hbase]
    _ = s.getV k := hbytes k hk

/-- Settles O36: the two bytes the fetch reads at the new `PC` are `V[k]` and `V[k + 1]` as stored. -/
theorem storedCodeIsFetched : Obligations.StoredCodeIsFetched := by
  intro x k l s t hbound hstore hk hl hkl hpc
  obtain ⟨-, htpc, hbytes⟩ := exec_ldMemVx_next hbound hstore
  have hkbound : s.blockBase + k.val ≤ 0xFFF := (Nat.add_le_add_left hk _).trans hbound
  have hlbound : s.blockBase + l.val ≤ 0xFFF := (Nat.add_le_add_left hl _).trans hbound
  have hnowrap : s.pc.toNat + 2 < 65536 := by rw [hpc, ← State.blockBase]; omega
  have haddr : t.pc.toNat = s.blockBase + k.val := by
    rw [htpc, BitVec.toNat_add, State.blockBase, ← hpc]
    exact Nat.mod_eq_of_lt hnowrap
  have hnext : t.pc.toNat + 1 = s.blockBase + l.val := by omega
  rw [State.fetch_ok (by omega), hnext, haddr, hbytes k hk, hbytes l hl]

/-! ### LD B, Vx -/

theorem exec_ldBVx_of_implemented (x : Reg) {s : State} (h : s.cfg.bcdImplemented = true) :
    exec (.ldBVx x) s = finishBlock (State.storeBlock (bcdDigits (s.getV x)) s.blockBase s) :=
  if_pos h

@[simp] theorem bcdDigits_length (b : Byte) : (bcdDigits b).length = 3 := rfl

/-- The three digits as numbers (R203). -/
theorem bcdDigits_toNat (b : Byte) :
    (bcdDigits b)[0].toNat = b.toNat / 100 ∧ (bcdDigits b)[1].toNat = b.toNat / 10 % 10 ∧
      (bcdDigits b)[2].toNat = b.toNat % 10 :=
  ⟨BitVec.toNat_udiv, by simp [bcdDigits], BitVec.toNat_umod⟩

/-- Settles O31: LD B, Vx is the block store of the three digits. -/
theorem bcdDigitsStored : Obligations.BcdDigitsStored := by
  refine fun x => ⟨encodedAs_of_encodeXKK rfl rfl, fun s hbcd => ?_⟩
  obtain ⟨hhundreds, htens, hones⟩ := bcdDigits_toNat (s.getV x)
  rw [exec_ldBVx_of_implemented x hbcd, ← State.blockBase]
  refine ⟨fun hin => ?_, fun hpast => ?_⟩
  · obtain ⟨t, hexec, hbytes, hnext, hframe⟩ :=
      finishBlock_storeBlock_in_bounds (bs := bcdDigits (s.getV x)) (a := s.blockBase) s
        (by rw [bcdDigits_length]; omega)
    exact ⟨t, hexec, (congrArg BitVec.toNat (hbytes 0 (by simp))).trans hhundreds,
      (congrArg BitVec.toNat (hbytes 1 (by simp))).trans htens,
      (congrArg BitVec.toNat (hbytes 2 (by simp))).trans hones, hnext, hframe⟩
  · obtain ⟨t, hexec, hrec, hbytes, hframe⟩ :=
      finishBlock_storeBlock_past_memory (bs := bcdDigits (s.getV x)) (a := s.blockBase) s
        (List.cons_ne_nil _ _) (by rw [bcdDigits_length]; omega)
    exact ⟨t, hexec, hrec, fun h0 => (congrArg BitVec.toNat (hbytes 0 (by simp) h0)).trans hhundreds,
      fun h1 => (congrArg BitVec.toNat (hbytes 1 (by simp) h1)).trans htens, hframe⟩

end Sys2Proof.Proofs
end

section
/-! PROOFS. The display and the keypad: the frames of their draws, then DRW, SKP, SKNP and LD Vx, K with the unit
present (R220, R222, R223, R226). -/

namespace Sys2Proof.Proofs

open Sys2Proof Sys2Proof.Machine

/-! ### Draws and their frames -/

/-- A frame may list more parts, in any order. -/
theorem changesOnly_of_subset {ps qs : List Part} {s t : State} (h : ChangesOnly ps s t) (hsub : ps ⊆ qs) :
    ChangesOnly qs s t :=
  fun p hp => h p (mt (hsub ·) hp)

theorem dropKeys_changesOnly (s : State) : ChangesOnly [.draws] s s.dropKeys := by
  intro p hp
  cases p with
  | draws => simp at hp
  | _ => rfl

theorem dropCollision_changesOnly (s : State) : ChangesOnly [.draws] s s.dropCollision := by
  intro p hp
  cases p with
  | draws => simp at hp
  | _ => rfl

theorem keysDraw_of_cons {s : State} {keys : Word} {rest : List Word} (h : s.draws.keys = keys :: rest) :
    s.keysDraw = keys := by
  rw [State.keysDraw, h, List.headD_cons]

theorem collisionDraw_of_cons {s : State} {r : Bool} {rest : List Bool} (h : s.draws.collision = r :: rest) :
    s.collisionDraw = r := by
  rw [State.collisionDraw, h, List.headD_cons]

/-! ### DRW -/

/-- DRW with its rows in memory: the request, the reply used up, VF, the next slot. -/
theorem exec_drw_in_bounds (x y : Reg) {n : Nibble} {s : State} (hd : s.cfg.displayPresent = true)
    (h : n.toNat = 0 ∨ s.blockBase + n.toNat ≤ 4096) :
    exec (.drw x y n) s = .next (((s.emit (.draw (s.getV x) (s.getV y)
      ((List.range n.toNat).map fun k => s.readByte (s.blockBase + k)))).dropCollision.setV 15
        (flagByte s.collisionDraw)).retire .next) := by
  simp only [exec, execDrw, if_pos hd, State.readRows_eq, if_pos h]

/-- DRW with a row past memory: the fault, in the state before any request. -/
theorem exec_drw_past_memory (x y : Reg) {n : Nibble} {s : State} (hd : s.cfg.displayPresent = true)
    (h : ¬(n.toNat = 0 ∨ s.blockBase + n.toNat ≤ 4096)) :
    exec (.drw x y n) s = .next (s.takeFault .outOfBoundsMemoryAccess) := by
  simp only [exec, execDrw, if_pos hd, State.readRows_eq, if_neg h]

/-- The writes of a completed DRW, whatever the request and the flag. -/
theorem drw_writes_changesOnly (q : DispRequest) (flag : Byte) (s : State) :
    ChangesOnly (.v 15 :: .dispOut :: .draws :: Part.flow) s
      (((s.emit q).dropCollision.setV 15 flag).retire .next) := by
  have hframe := changesOnly_trans (emit_changesOnly q s) (changesOnly_trans (dropCollision_changesOnly _)
    (changesOnly_trans (setV_changesOnly 15 flag _) (retire_next_changesOnly _)))
  exact changesOnly_of_subset hframe (by simp [Part.flow])

/-- Settles O37: the bound on the rows decides between the request and the fault. -/
theorem drawSendsRows : Obligations.DrawSendsRows := by
  refine fun x y n => ⟨encodedAs_of_encode rfl, fun s hd =>
    ⟨fun _ _ => collisionDraw_of_cons, fun hin => ?_, fun hpast hn => ?_⟩⟩
  · have hrows : n.toNat = 0 ∨ s.blockBase + n.toNat ≤ 4096 := hin.symm.imp_left (congrArg BitVec.toNat)
    refine ⟨_, exec_drw_in_bounds x y hd hrows, rfl, ?_, rfl, ⟨rfl, rfl⟩, drw_writes_changesOnly _ _ s⟩
    rw [State.retire_getV, State.getV_setV_self, flagByte]
  · have hn0 : n.toNat ≠ 0 := fun h0 => hn (BitVec.eq_of_toNat_eq h0)
    exact ⟨_, exec_drw_past_memory x y hd (not_or.mpr ⟨hn0, Nat.not_le.mpr hpast⟩), takesFault_takeFault _ s⟩

/-! ### SKP and SKNP -/

theorem exec_skp_of_keypad (x : Reg) {s : State} (hk : s.cfg.keypadPresent = true) :
    exec (.skp x) s = skipIf (keyPressed s.keysDraw (s.getV x)) s.dropKeys :=
  if_pos hk

theorem exec_sknp_of_keypad (x : Reg) {s : State} (hk : s.cfg.keypadPresent = true) :
    exec (.sknp x) s = skipIf (!keyPressed s.keysDraw (s.getV x)) s.dropKeys :=
  if_pos hk

/-- A skip after the draw of `keys`: the reply is used up on both outcomes. -/
theorem skipIf_dropKeys_spec {c : Bool} {hit miss : Prop} (hskip : hit → c = true) (hnext : miss → c = false)
    (s : State) :
    ∃ t, skipIf c s.dropKeys = .next t ∧ (hit → SkipSlot s t) ∧ (miss → NextSlot s t) ∧
      t.draws = { s.draws with keys := s.draws.keys.tail, count := s.draws.count + 1 } ∧
      ChangesOnly (.draws :: Part.flow) s t := by
  obtain ⟨t, hexec, hhit, hmiss, hframe⟩ := skipIf_spec hskip hnext s.dropKeys
  exact ⟨t, hexec, hhit, hmiss, hframe .draws (by simp [Part.flow]),
    changesOnly_trans (dropKeys_changesOnly s) hframe⟩

/-- Settles O38: SKP skips on the key's bit of the draw, SKNP on its complement. -/
theorem skipOnKey : Obligations.SkipOnKey := by
  refine fun x => ⟨encodedAs_of_encodeXKK rfl rfl, encodedAs_of_encodeXKK rfl rfl, fun s hk =>
    ⟨fun _ _ => keysDraw_of_cons, ?skp, ?sknp⟩⟩
  case skp =>
    rw [exec_skp_of_keypad x hk]
    exact skipIf_dropKeys_spec id id s
  case sknp =>
    rw [exec_sknp_of_keypad x hk]
    exact skipIf_dropKeys_spec (congrArg not) (congrArg not) s

/-! ### LD Vx, K -/

/-- A pressed key below which no key is pressed is the lowest one. -/
theorem lowestKey_eq_some {keys : Word} {k : Reg} (hpressed : keys.getLsbD k.val = true)
    (hlowest : ∀ j : Reg, j < k → keys.getLsbD j.val = false) : lowestKey keys = some k.val := by
  refine List.find?_range_eq_some.mpr ⟨hpressed, List.mem_range.mpr k.isLt, fun j hj => ?_⟩
  rw [hlowest ⟨j, hj.trans k.isLt⟩ hj, Bool.not_false]

theorem exec_ldVxK_of_some (x : Reg) {s : State} {k : Nat} (hk : s.cfg.keypadPresent = true)
    (h : lowestKey s.keysDraw = some k) :
    exec (.ldVxK x) s = .next ((s.dropKeys.setV x (BitVec.ofNat 8 k)).retire .next) := by
  simp only [exec, execLdVxK, if_pos hk, h]

theorem exec_ldVxK_of_none (x : Reg) {s : State} (hk : s.cfg.keypadPresent = true)
    (h : lowestKey s.keysDraw = none) : exec (.ldVxK x) s = .next (s.dropKeys.retire .jump) := by
  simp only [exec, execLdVxK, if_pos hk, h]

/-- Settles O39: the lowest key is written as a result; with none the outcome `jump` holds `PC`. -/
theorem waitForKey : Obligations.WaitForKey := by
  refine fun x => ⟨encodedAs_of_encodeXKK rfl rfl, fun s hk =>
    ⟨fun _ _ => keysDraw_of_cons, fun k hpressed hlowest => ?_, fun hzero => ?_⟩⟩
  · have hbyte : (BitVec.ofNat 8 k.val).toNat = k.val := by rw [BitVec.toNat_ofNat]; omega
    have hframe := changesOnly_trans (dropKeys_changesOnly s)
      (changesOnly_trans (setV_changesOnly x (BitVec.ofNat 8 k.val) _) (retire_next_changesOnly _))
    refine ⟨_, exec_ldVxK_of_some x hk (lowestKey_eq_some hpressed hlowest), ?_, rfl, ⟨rfl, rfl⟩,
      changesOnly_of_subset hframe (by simp [Part.flow])⟩
    rw [State.retire_getV, State.getV_setV_self, hbyte]
  · have hnone : lowestKey s.keysDraw = none := by
      rw [hzero, lowestKey_eq_none]
      exact fun _ _ => BitVec.getLsbD_zero
    have hframe := changesOnly_trans (dropKeys_changesOnly s) (retire_jump_changesOnly _)
    exact ⟨_, exec_ldVxK_of_none x hk hnone, rfl, rfl, changesOnly_of_subset hframe (by simp)⟩

end Sys2Proof.Proofs
end

section
/-! PROOFS. The timers: the step of the scheduled timer agent, its decrement and its frame (R255, R256, R261). -/

namespace Sys2Proof.Proofs

open Sys2Proof Sys2Proof.Machine

theorem popSchedule_changesOnly (s : State) : ChangesOnly [.schedule] s s.popSchedule := by
  intro p hp
  cases p with
  | schedule => simp at hp
  | _ => rfl

/-- A step that leaves the state as it is meets every frame. -/
theorem changesOnly_refl (ps : List Part) (s : State) : ChangesOnly ps s s := by
  intro p _
  cases p <;> rfl

/-- One decrement of a nonzero counter does not wrap. -/
theorem toNat_sub_one_add_one {b : Byte} (h : b ≠ 0) : (b - 1).toNat + 1 = b.toNat := by
  bv_omega

/-! ### The delay timer -/

theorem step_tickDt {s : State} (h : s.nextAgent = .tickDt) : step s = .next s.popSchedule.tickDt := by
  rw [step, h, agentStep]

/-- The delay timer's gate is open and its counter is nonzero: it decrements (R256). -/
theorem tickDt_of_enabled {s : State} (hgate : s.runState = .running ∨ s.postStopDt = true) (hdt : s.dt ≠ 0) :
    s.tickDt = { s with dt := s.dt - 1, postStopDt := false } := by
  rw [State.tickDt, if_pos hgate, if_pos hdt]

/-- With the gate closed or the counter at 0 a tick leaves the state as it is (R256, R261). -/
theorem tickDt_of_disabled {s : State} (h : ¬(s.runState = .running ∨ s.postStopDt = true) ∨ s.dt = 0) :
    s.tickDt = s := by
  rcases h with hgate | hdt
  · rw [State.tickDt, if_neg hgate]
  · rw [State.tickDt, if_neg (not_not.mpr hdt), ite_self]

theorem tickDt_changesOnly (s : State) : ChangesOnly [.dt, .postStopDt] s s.tickDt := by
  by_cases h : (s.runState = .running ∨ s.postStopDt = true) ∧ s.dt ≠ 0
  · obtain ⟨hgate, hdt⟩ := h
    rw [tickDt_of_enabled hgate hdt]
    intro p hp
    cases p with
    | dt | postStopDt => simp at hp
    | _ => rfl
  · rw [not_and_or, not_not] at h
    rw [tickDt_of_disabled h]
    exact changesOnly_refl _ s

/-- Settles O51: the tick decrements where it is enabled and is the identity elsewhere; the step adds only the used-up
turn. -/
theorem delayTimerTick : Obligations.DelayTimerTick := by
  intro s hagent
  refine ⟨_, step_tickDt hagent, fun hgate hdt => ?_, fun hoff => ?_, ?_⟩
  · rw [tickDt_of_enabled (s := s.popSchedule) hgate hdt]
    exact toNat_sub_one_add_one hdt
  · rw [tickDt_of_disabled (s := s.popSchedule) hoff, State.popSchedule_dt]
  · have hframe := changesOnly_trans (popSchedule_changesOnly s) (tickDt_changesOnly _)
    exact changesOnly_of_subset hframe (by simp)

end Sys2Proof.Proofs
end

section
/-! PROOFS. Reset and load: the step of a scheduled `rst` with an accepted image, and where each image byte lands (R280,
R283). -/

namespace Sys2Proof.Proofs

open Sys2Proof Sys2Proof.Machine

theorem rst_of_wellFormed {image : List Byte} (h : imageWellFormed image = true) (s : State) :
    s.rst image = s.zeroed.loadImage image 0x200 := by
  rw [State.rst, if_pos h]

theorem step_rst_of_wellFormed {s : State} {image : List Byte} (hagent : s.nextAgent = .rst image)
    (h : imageWellFormed image = true) : step s = .next (s.popSchedule.zeroed.loadImage image 0x200) := by
  rw [step, hagent, agentStep, rst_of_wellFormed h]

/-- Byte `k` of a loaded image is at the load address plus `k` (R283). -/
theorem loadImage_readByte_getElem {bs : List Byte} {k : Nat} (a : Nat) (s : State) (hk : k < bs.length) :
    (s.loadImage bs a).readByte (a + k) = bs[k] := by
  have hin : a ≤ a + k ∧ a + k < a + bs.length := by omega
  rw [State.loadImage_readByte, dif_pos hin]
  simp only [Nat.add_sub_cancel_left]

/-- Settles O58: the words follow from the bytes, the low byte of word `j` being image byte `2 * j + 1`. -/
theorem resetLoadsImage : Obligations.ResetLoadsImage := by
  intro s image hagent hwf
  refine ⟨_, step_rst_of_wellFormed hagent hwf, fun k hk => loadImage_readByte_getElem _ _ hk, fun j hj => ?_⟩
  have hlow : 0x201 + 2 * j = 0x200 + (2 * j + 1) := by omega
  rw [hlow, loadImage_readByte_getElem _ _ (by omega), loadImage_readByte_getElem _ _ hj]

end Sys2Proof.Proofs
end

section
/-! PROOFS. The decoder as a whole: it inverts the encoder on words and on bytes, and it rejects exactly the words of
R91's table (R85, R90, R91, R95). -/

namespace Sys2Proof.Proofs

open Sys2Proof

/-! ### The round trip -/

/-- The two bytes of a word in memory order make the word again (R63). -/
theorem wordOfBytes_of_bytesOfWord (w : Word) : wordOfBytes (w.extractLsb' 8 8) (w.extractLsb' 0 8) = w := by
  rw [wordOfBytes, BitVec.extractLsb'_append_extractLsb'_eq_extractLsb' (by decide)]
  exact BitVec.extractLsb'_eq_self

/-- Settles O1: the word by the decoder's inverse, the bytes because they make up that word again. -/
theorem decodeReadsBackEncode : Obligations.DecodeReadsBackEncode := by
  intro i _
  refine ⟨decodeWord_encode i, ?_⟩
  rw [encodeBytes, bytesOfWord, decodeBytes, wordOfBytes_of_bytesOfWord, decodeWord_encode]

/-- Settles O2: the other direction of the same inverse. -/
theorem encodeReadsBackDecode : Obligations.EncodeReadsBackDecode :=
  fun _ _ h => encode_of_decodeWord h

/-- Settles O5: each word is the encoding of the instruction it stands for. -/
theorem sampleWordsDecode : Obligations.SampleWordsDecode :=
  ⟨decodeWord_encode .cls, decodeWord_encode (.jp 0x234), decodeWord_encode (.seVxKk 1 0x2A),
    decodeWord_encode (.seVxVy 2 3), decodeWord_encode (.shr 2 3), decodeWord_encode (.jpV0 0x300),
    decodeWord_encode (.drw 0 1 5), decodeWord_encode (.sknp 5), decodeWord_encode (.ldMemVx 2)⟩

/-! ### The rejected words -/

theorem fields_f_toNat (w : Word) : (fields w).f.toNat = w.toNat / 0x1000 := by
  simp [fields, Nat.shiftRight_eq_div_pow]
  omega

theorem fields_n_toNat (w : Word) : (fields w).n.toNat = w.toNat % 0x10 := by
  simp [fields]

theorem fields_kk_toNat (w : Word) : (fields w).kk.toNat = w.toNat % 0x100 := by
  simp [fields]

/-- The words that R91's table rejects under each name; every word is long enough to be one. -/
def RejectedAs (w : Word) : DecodeReject → Prop
  | .family0 => w.toNat / 0x1000 = 0x0 ∧ w ≠ 0x00E0 ∧ w ≠ 0x00EE ∧ w ≠ 0x00FD
  | .family5 => w.toNat / 0x1000 = 0x5 ∧ w.toNat % 0x10 ≠ 0
  | .family8 => w.toNat / 0x1000 = 0x8 ∧ w.toNat % 0x10 ∈ [0x8, 0x9, 0xA, 0xB, 0xC, 0xD, 0xF]
  | .family9 => w.toNat / 0x1000 = 0x9 ∧ w.toNat % 0x10 ≠ 0
  | .familyE => w.toNat / 0x1000 = 0xE ∧ w.toNat % 0x100 ∉ [0x9E, 0xA1]
  | .familyF => w.toNat / 0x1000 = 0xF ∧
      w.toNat % 0x100 ∉ [0x07, 0x0A, 0x15, 0x18, 0x1E, 0x29, 0x33, 0x55, 0x65]
  | .truncated => False

theorem decodeFamily0_eq_error_iff (w : Word) (r : DecodeReject) :
    decodeFamily0 w = .error r ↔ r = .family0 ∧ w ≠ 0x00E0 ∧ w ≠ 0x00EE ∧ w ≠ 0x00FD := by
  unfold decodeFamily0
  split
  case h_4 hcls hret hhalt =>
    have hrest : w ≠ 0x00E0 ∧ w ≠ 0x00EE ∧ w ≠ 0x00FD := ⟨hcls, hret, hhalt⟩
    rw [and_iff_left hrest]
    simp [eq_comm]
  all_goals simp

theorem decodeFamily8_eq_error_iff (d : Fields) (r : DecodeReject) :
    decodeFamily8 d = .error r ↔ r = .family8 ∧ d.n.toNat ∈ [0x8, 0x9, 0xA, 0xB, 0xC, 0xD, 0xF] := by
  unfold decodeFamily8
  dsimp only
  split
  case h_10 =>
    have hrest : d.n.toNat ∈ [0x8, 0x9, 0xA, 0xB, 0xC, 0xD, 0xF] := by
      simp only [← BitVec.toNat_inj, BitVec.toNat_ofNat, imp_false, List.mem_cons] at *
      omega
    rw [and_iff_left hrest]
    simp [eq_comm]
  all_goals rename_i hn; simp [hn]

theorem decodeFamilyE_eq_error_iff (d : Fields) (r : DecodeReject) :
    decodeFamilyE d = .error r ↔ r = .familyE ∧ d.kk.toNat ∉ [0x9E, 0xA1] := by
  unfold decodeFamilyE
  split
  case h_3 hskp hsknp =>
    have hrest : d.kk.toNat ∉ [0x9E, 0xA1] := by
      simp only [← BitVec.toNat_inj, BitVec.toNat_ofNat, imp_false, List.mem_cons, List.not_mem_nil, or_false,
        not_or] at *
      omega
    rw [and_iff_left hrest]
    simp [eq_comm]
  all_goals rename_i hk; simp [hk]

theorem decodeFamilyF_eq_error_iff (d : Fields) (r : DecodeReject) :
    decodeFamilyF d = .error r ↔
      r = .familyF ∧ d.kk.toNat ∉ [0x07, 0x0A, 0x15, 0x18, 0x1E, 0x29, 0x33, 0x55, 0x65] := by
  unfold decodeFamilyF
  dsimp only
  split
  case h_10 =>
    have hrest : d.kk.toNat ∉ [0x07, 0x0A, 0x15, 0x18, 0x1E, 0x29, 0x33, 0x55, 0x65] := by
      simp only [← BitVec.toNat_inj, BitVec.toNat_ofNat, imp_false, List.mem_cons, List.not_mem_nil, or_false,
        not_or] at *
      omega
    rw [and_iff_left hrest]
    simp [eq_comm]
  all_goals rename_i hk; simp [hk]

/-- The decoder rejects a word under a name exactly where R91's table does, family by family. -/
theorem decodeWord_eq_error_iff (w : Word) (r : DecodeReject) : decodeWord w = .error r ↔ RejectedAs w r := by
  have hfamily := fields_f_toNat w
  have hn : (fields w).n = 0 ↔ w.toNat % 0x10 = 0 := by rw [← BitVec.toNat_inj, fields_n_toNat]; rfl
  unfold decodeWord
  dsimp only
  split
  case h_1 hf =>
    rw [hf] at hfamily
    rw [decodeFamily0_eq_error_iff]
    cases r <;> simp [RejectedAs, ← hfamily]
  case h_9 hf =>
    rw [hf] at hfamily
    rw [decodeFamily8_eq_error_iff, fields_n_toNat]
    cases r <;> simp [RejectedAs, ← hfamily]
  case h_15 hf =>
    rw [hf] at hfamily
    rw [decodeFamilyE_eq_error_iff, fields_kk_toNat]
    cases r <;> simp [RejectedAs, ← hfamily]
  case h_16 =>
    have hF : w.toNat / 0x1000 = 0xF := by
      simp only [← BitVec.toNat_inj, BitVec.toNat_ofNat, imp_false] at *
      omega
    rw [decodeFamilyF_eq_error_iff, fields_kk_toNat]
    cases r <;> simp [RejectedAs, hF]
  case h_6 hf | h_10 hf =>
    rw [hf] at hfamily
    split <;> rename_i h0 <;> rw [hn] at h0 <;> cases r <;> simp [RejectedAs, ← hfamily, h0]
  all_goals
    rename_i hf
    rw [hf] at hfamily
    cases r <;> simp [RejectedAs, ← hfamily]

/-- Settles O3: each row of the table, and no row for a word that is too short. -/
theorem rejectedWordsAreExactlyListed : Obligations.RejectedWordsAreExactlyListed := by
  intro w
  have hlow : w.toNat / 0x1000 = 0x0 ↔ w.toNat < 0x1000 := Nat.div_eq_zero_iff.trans (by simp)
  simp only [decodeWord_eq_error_iff, RejectedAs, hlow, ne_eq, not_false_eq_true, iff_self, and_self]

end Sys2Proof.Proofs
end

section
/-! PROOFS. Rules over all instructions, from `exec_cases`: how an instruction ends, what each piece of state is written
by, and which fault each instruction raises (R21-R41, R105, R106, R242, R244). -/

namespace Sys2Proof.Proofs

open Sys2Proof Sys2Proof.Machine

/-! ### How an instruction ends -/

theorem finishBlock_next (r : State × Option FaultKind) : ∃ t, finishBlock r = .next t := by
  obtain ⟨u, _ | k⟩ := r
  · exact ⟨_, finishBlock_none u⟩
  · exact ⟨_, finishBlock_some u k⟩

/-- No instruction is refused and none answers the stopped loop's outcome. -/
theorem exec_next (i : Instr) (s : State) : ∃ t, exec i s = .next t := by
  cases i with
  | ret =>
    by_cases h : s.sp.val = 0
    · exact ⟨_, exec_ret_empty h⟩
    · obtain ⟨t, ht, -⟩ := exec_ret_of_sp (s := s) (k := ⟨s.sp.val - 1, by omega⟩) (by simp only; omega)
      exact ⟨t, ht⟩
  | call nnn =>
    by_cases h : s.sp.val < 16
    · obtain ⟨t, ht, -⟩ := exec_call_of_lt nnn h
      exact ⟨t, ht⟩
    · exact ⟨_, exec_call_full nnn (by omega)⟩
  | drw x y n =>
    simp only [exec, execDrw]
    split
    · split <;> exact ⟨_, rfl⟩
    · exact ⟨_, rfl⟩
  | skp x => simp only [exec, execSkp]; split <;> exact ⟨_, rfl⟩
  | sknp x => simp only [exec, execSknp]; split <;> exact ⟨_, rfl⟩
  | ldVxK x =>
    simp only [exec, execLdVxK]
    split
    · split <;> exact ⟨_, rfl⟩
    · exact ⟨_, rfl⟩
  | ldBVx x =>
    simp only [exec, execLdBVx]
    split
    · exact finishBlock_next _
    · exact ⟨_, rfl⟩
  | ldMemVx x => exact finishBlock_next _
  | ldVxMem x => exact finishBlock_next _
  | _ => exact ⟨_, rfl⟩

/-- An instruction leaves the run state and what goes with it alone, or is HALT, or takes a fault that is not the
reset's; a fault holds `PC` (R100, R106, R243, R261). -/
theorem exec_runState_cases {i : Instr} {s t : State} (h : exec i s = .next t) :
    (t.outcome = none ∧ t.runState = s.runState ∧ t.faultKind = s.faultKind ∧ t.postStopDt = s.postStopDt ∧
        t.postStopSt = s.postStopSt) ∨
      (i = .halt ∧ t.outcome = none ∧ t.runState = .halted ∧ t.postStopDt = true ∧ t.postStopSt = true) ∨
      (t.outcome = s.outcome ∧ t.pc = s.pc ∧ t.postStopDt = true ∧ t.postStopSt = true ∧
        ∃ k, FaultRecorded k t ∧ k ≠ .malformedProgramImage) := by
  cases exec_cases h with
  | skip i c _ => cases c <;> simp
  | keySkip i c _ => cases c <;> simp
  | store => rw [State.storeBlock_mem_only]; simp
  | storeBounds => rw [State.storeBlock_mem_only]; simp [FaultRecorded]
  | load => rw [State.loadBlock_v_only]; simp
  | loadBounds => rw [State.loadBlock_v_only]; simp [FaultRecorded]
  | _ => simp [FaultRecorded]

theorem exec_cfg_schedule {i : Instr} {s t : State} (h : exec i s = .next t) :
    t.cfg = s.cfg ∧ t.schedule = s.schedule := by
  cases exec_cases h with
  | store | storeBounds => rw [State.storeBlock_mem_only]; simp
  | load | loadBounds => rw [State.loadBlock_v_only]; simp
  | _ => simp

/-- Settles O41: each of the three ends consumes the outcome or takes a fault. -/
theorem everyInstructionEnds : Obligations.EveryInstructionEnds := by
  intro i s
  obtain ⟨t, ht⟩ := exec_next i s
  obtain ⟨hcfg, hsched⟩ := exec_cfg_schedule ht
  refine ⟨t, ht, hcfg, hsched, ?_⟩
  obtain ⟨hout, -⟩ | ⟨-, hout, -⟩ | ⟨hout, hpc, -, -, k, hk, -⟩ := exec_runState_cases ht
  · exact .inl hout
  · exact .inl hout
  · exact .inr ⟨hout, hpc, k, hk⟩

/-! ### Who writes what -/

/-- A result changes VF only where it is written to VF. -/
theorem eq_fifteen_of_setV_changes {u s : State} {x : Reg} {b : Byte} (hu : u.getV 15 = s.getV 15)
    (hne : (u.setV x b).getV 15 ≠ s.getV 15) : x = 15 := by
  by_contra hx
  exact hne (by rw [State.getV_setV, if_neg (Ne.symm hx), hu])

/-- A block load changes VF only where it loads all registers. -/
theorem eq_fifteen_of_loadBlock_changes {x : Reg} {a : Nat} {s : State}
    (hne : (State.loadBlock (regsUpTo x) a s).1.getV 15 ≠ s.getV 15) : x = 15 := by
  have hmem : 15 ∈ regsUpTo x := by
    by_contra hx
    exact hne (State.loadBlock_getV_other _ a s hx)
  exact Fin.last_le_iff.mp ((mem_regsUpTo x 15).mp hmem)

/-- Settles O42: the flag-writing instructions are named outright, any other write of a register reaches VF only where
VF is its destination. -/
theorem writersOfVF : Obligations.WritersOfVF := by
  intro i s t h hvf
  cases exec_cases h with
  | resultFlag i x b flag hi =>
    obtain ⟨y, hi⟩ := hi
    exact .inl ⟨x, y, hi⟩
  | drw x y n q flag hd => exact .inr (.inl ⟨x, y, n, rfl, hd⟩)
  | result i x b hi =>
    rw [State.retire_getV] at hvf
    obtain rfl := eq_fifteen_of_setV_changes rfl hvf
    obtain ⟨kk, y, hi⟩ := hi
    exact .inr (.inr ⟨kk, y, by tauto⟩)
  | rnd x kk b =>
    rw [State.retire_getV] at hvf
    obtain rfl := eq_fifteen_of_setV_changes rfl hvf
    exact .inr (.inr ⟨kk, 0, by simp⟩)
  | keyTaken x b =>
    rw [State.retire_getV] at hvf
    obtain rfl := eq_fifteen_of_setV_changes rfl hvf
    exact .inr (.inr ⟨0, 0, by simp⟩)
  | load x =>
    rw [State.retire_getV] at hvf
    obtain rfl := eq_fifteen_of_loadBlock_changes hvf
    exact .inr (.inr ⟨0, 0, by simp⟩)
  | loadBounds x =>
    rw [State.takeFault_getV] at hvf
    obtain rfl := eq_fifteen_of_loadBlock_changes hvf
    exact .inr (.inr ⟨0, 0, by simp⟩)
  | store | storeBounds => rw [State.storeBlock_mem_only] at hvf; simp [State.getV] at hvf
  | ret | call => simp [State.getV] at hvf
  | _ => simp at hvf

/-- Settles O43: the case that writes a piece of state names its instructions, every other case leaves the piece
alone. -/
theorem writersOfOtherState : Obligations.WritersOfOtherState := by
  intro i s t h
  cases exec_cases h with
  | address i w hi => simp [hi]
  | store i bs hi =>
    obtain ⟨x, hi⟩ := hi
    rw [State.storeBlock_mem_only]
    simpa using fun _ => ⟨x, hi.imp_left And.left⟩
  | storeBounds i bs hi =>
    obtain ⟨x, hi⟩ := hi
    rw [State.storeBlock_mem_only]
    simpa using fun _ => ⟨x, hi.imp And.left And.left⟩
  | load | loadBounds => rw [State.loadBlock_v_only]; simp
  | _ => simp

/-! ### The faults -/

/-- Settles O44: each fault stands in a case of its own, with its cause. -/
theorem faultsOfInstructions : Obligations.FaultsOfInstructions := by
  intro i s t k hrun h hfaulted hkind
  cases exec_cases h with
  | callFull nnn hsp =>
    obtain rfl := Option.some.inj hkind
    exact .inl ⟨rfl, hsp, nnn, rfl⟩
  | retEmpty hsp =>
    obtain rfl := Option.some.inj hkind
    exact .inr (.inl ⟨rfl, hsp, rfl⟩)
  | drwAbsent x y n hd =>
    obtain rfl := Option.some.inj hkind
    exact .inr (.inr (.inl ⟨rfl, .inl ⟨hd, x, y, n, rfl⟩⟩))
  | keyAbsent i hi hd =>
    obtain rfl := Option.some.inj hkind
    exact .inr (.inr (.inl ⟨rfl, .inr (.inl ⟨hd, hi⟩)⟩))
  | bcdAbsent x hd =>
    obtain rfl := Option.some.inj hkind
    exact .inr (.inr (.inl ⟨rfl, .inr (.inr ⟨hd, x, rfl⟩)⟩))
  | drwBounds x y n hd hn hb =>
    obtain rfl := Option.some.inj hkind
    rw [State.blockBase] at hb
    exact .inr (.inr (.inr ⟨rfl, .inl ⟨hd, x, y, n, rfl, hn, by omega⟩⟩))
  | storeBounds i bs hi hb =>
    obtain rfl := Option.some.inj hkind
    rw [State.blockBase] at hb
    obtain ⟨x, ⟨rfl, hd, hlen⟩ | ⟨rfl, hlen⟩⟩ := hi
    · exact .inr (.inr (.inr ⟨rfl, .inr (.inl ⟨hd, by omega, x, rfl⟩)⟩))
    · exact .inr (.inr (.inr ⟨rfl, .inr (.inr ⟨x, .inl rfl, by omega⟩)⟩))
  | loadBounds x hb =>
    obtain rfl := Option.some.inj hkind
    rw [State.blockBase] at hb
    exact .inr (.inr (.inr ⟨rfl, .inr (.inr ⟨x, .inr rfl, by omega⟩)⟩))
  | store => rw [State.storeBlock_mem_only] at hfaulted; simp [hrun] at hfaulted
  | load => rw [State.loadBlock_v_only] at hfaulted; simp [hrun] at hfaulted
  | skip i c | keySkip i c => cases c <;> simp [hrun] at hfaulted
  | _ => simp [hrun] at hfaulted

/-- Settles O45: taking a fault writes none of this, so what is written stems from a block transfer. -/
theorem faultsArePrecise : Obligations.FaultsArePrecise := by
  intro i s t hrun h hfaulted
  cases exec_cases h with
  | storeBounds i bs hi hb =>
    rw [State.storeBlock_mem_only]
    obtain ⟨x, ⟨rfl, -⟩ | ⟨rfl, -⟩⟩ := hi <;> simp
  | loadBounds => rw [State.loadBlock_v_only]; simp
  | store => rw [State.storeBlock_mem_only] at hfaulted; simp [hrun] at hfaulted
  | load => rw [State.loadBlock_v_only] at hfaulted; simp [hrun] at hfaulted
  | skip i c | keySkip i c => cases c <;> simp [hrun] at hfaulted
  | retEmpty | callFull | drwBounds | drwAbsent | keyAbsent | bcdAbsent => simp
  | _ => simp [hrun] at hfaulted

end Sys2Proof.Proofs
end

section
/-! PROOFS. The sound timer's two modes, the frames of the timer agents and the post-stop permissions (R33, R72,
R256-R259, R261). -/

namespace Sys2Proof.Proofs

open Sys2Proof Sys2Proof.Machine

theorem step_tickSt {s : State} (h : s.nextAgent = .tickSt) : step s = .next s.popSchedule.tickSt := by
  rw [step, h, agentStep]

theorem step_stWrite {s : State} (h : s.nextAgent = .stWrite) : step s = .next s.popSchedule.stWrite := by
  rw [step, h, agentStep]

/-! ### The sound timer's steps, case by case -/

/-- Guarded, with the gate open and the counter nonzero: one atomic decrement (R257). -/
theorem tickSt_of_guarded {s : State} (hgate : s.runState = .running ∨ s.postStopSt = true) (hst : s.st ≠ 0)
    (hg : s.cfg.soundTimerGuarded = true) : s.tickSt = { s with st := s.st - 1, postStopSt := false } := by
  rw [State.tickSt, if_pos hgate, if_pos hst, if_pos hg]

/-- Unguarded, with the gate open, the counter nonzero and the latch empty: the read phase (R258). -/
theorem tickSt_of_unguarded {s : State} (hgate : s.runState = .running ∨ s.postStopSt = true) (hst : s.st ≠ 0)
    (hg : s.cfg.soundTimerGuarded = false) (hl : s.stLatch = none) : s.tickSt = { s with stLatch := some s.st } := by
  simp only [State.tickSt, if_pos hgate, if_pos hst, hg, hl, Bool.false_eq_true, if_false]

/-- With the gate closed, the counter at 0 or, unguarded, the latch full, a tick leaves the state as it is (R257, R258,
R261). -/
theorem tickSt_of_idle {s : State}
    (h : ¬(s.runState = .running ∨ s.postStopSt = true) ∨ s.st = 0 ∨
      (s.cfg.soundTimerGuarded = false ∧ s.stLatch ≠ none)) : s.tickSt = s := by
  rcases h with hgate | hst | ⟨hg, hl⟩
  · rw [State.tickSt, if_neg hgate]
  · rw [State.tickSt, if_neg (not_not.mpr hst), ite_self]
  · obtain ⟨l, hl⟩ := Option.ne_none_iff_exists'.mp hl
    simp only [State.tickSt, hg, hl, Bool.false_eq_true, if_false, ite_self]

/-- What a tick of the sound timer can do: decrement, latch, or nothing. -/
theorem tickSt_cases (s : State) :
    ((s.runState = .running ∨ s.postStopSt = true) ∧ s.st ≠ 0 ∧ s.cfg.soundTimerGuarded = true ∧
        s.tickSt = { s with st := s.st - 1, postStopSt := false }) ∨
      ((s.runState = .running ∨ s.postStopSt = true) ∧ s.st ≠ 0 ∧ s.cfg.soundTimerGuarded = false ∧
        s.stLatch = none ∧ s.tickSt = { s with stLatch := some s.st }) ∨
      ((¬(s.runState = .running ∨ s.postStopSt = true) ∨ s.st = 0 ∨
        (s.cfg.soundTimerGuarded = false ∧ s.stLatch ≠ none)) ∧ s.tickSt = s) := by
  by_cases hidle : ¬(s.runState = .running ∨ s.postStopSt = true) ∨ s.st = 0 ∨
      (s.cfg.soundTimerGuarded = false ∧ s.stLatch ≠ none)
  · exact .inr (.inr ⟨hidle, tickSt_of_idle hidle⟩)
  · rw [not_or, not_not, not_or] at hidle
    obtain ⟨hgate, hst, hopen⟩ := hidle
    cases hg : s.cfg.soundTimerGuarded with
    | true => exact .inl ⟨hgate, hst, rfl, tickSt_of_guarded hgate hst hg⟩
    | false =>
      have hl : s.stLatch = none := by_contra fun hl => hopen ⟨hg, hl⟩
      exact .inr (.inl ⟨hgate, hst, rfl, hl, tickSt_of_unguarded hgate hst hg hl⟩)

/-- Unguarded, with the latch full: the write phase (R259). -/
theorem stWrite_of_latched {s : State} {l : Byte} (hg : s.cfg.soundTimerGuarded = false) (hl : s.stLatch = some l) :
    s.stWrite = { s with st := l - 1, stLatch := none, postStopSt := false } := by
  simp only [State.stWrite, hg, hl, Bool.false_eq_true, if_false]

/-- Guarded, or with the latch empty, there is no write phase (R259). -/
theorem stWrite_of_disabled {s : State} (h : s.cfg.soundTimerGuarded = true ∨ s.stLatch = none) : s.stWrite = s := by
  rcases h with hg | hl
  · rw [State.stWrite, if_pos hg]
  · simp only [State.stWrite, hl, ite_self]

/-- What a write phase can do: write the latch back, or nothing. -/
theorem stWrite_cases (s : State) :
    (∃ l, s.cfg.soundTimerGuarded = false ∧ s.stLatch = some l ∧
        s.stWrite = { s with st := l - 1, stLatch := none, postStopSt := false }) ∨
      ((s.cfg.soundTimerGuarded = true ∨ s.stLatch = none) ∧ s.stWrite = s) := by
  cases hg : s.cfg.soundTimerGuarded with
  | true => exact .inr ⟨.inl rfl, stWrite_of_disabled (.inl hg)⟩
  | false =>
    cases hl : s.stLatch with
    | none => exact .inr ⟨.inr rfl, stWrite_of_disabled (.inr hl)⟩
    | some l => exact .inl ⟨l, rfl, rfl, stWrite_of_latched hg hl⟩

/-- What a tick of the delay timer can do: decrement, or nothing. -/
theorem tickDt_cases (s : State) :
    ((s.runState = .running ∨ s.postStopDt = true) ∧ s.dt ≠ 0 ∧
        s.tickDt = { s with dt := s.dt - 1, postStopDt := false }) ∨
      ((¬(s.runState = .running ∨ s.postStopDt = true) ∨ s.dt = 0) ∧ s.tickDt = s) := by
  by_cases h : (s.runState = .running ∨ s.postStopDt = true) ∧ s.dt ≠ 0
  · exact .inl ⟨h.1, h.2, tickDt_of_enabled h.1 h.2⟩
  · rw [not_and_or, not_not] at h
    exact .inr ⟨h, tickDt_of_disabled h⟩

/-! ### Frames -/

/-- An atomic decrement writes the counter and the permission. -/
theorem decrementSt_changesOnly (b : Byte) (s : State) :
    ChangesOnly [.st, .postStopSt] s { s with st := b, postStopSt := false } := by
  intro p hp
  cases p with
  | st | postStopSt => simp at hp
  | _ => rfl

theorem latch_changesOnly (l : Option Byte) (s : State) : ChangesOnly [.stLatch] s { s with stLatch := l } := by
  intro p hp
  cases p with
  | stLatch => simp at hp
  | _ => rfl

theorem tickSt_guarded_changesOnly {s : State} (hg : s.cfg.soundTimerGuarded = true) :
    ChangesOnly [.st, .postStopSt] s s.tickSt := by
  obtain ⟨-, -, -, h⟩ | ⟨-, -, hu, -⟩ | ⟨-, h⟩ := tickSt_cases s
  · exact h ▸ decrementSt_changesOnly _ s
  · rw [hg] at hu; cases hu
  · exact h.symm ▸ changesOnly_refl _ s

theorem tickSt_unguarded_changesOnly {s : State} (hg : s.cfg.soundTimerGuarded = false) :
    ChangesOnly [.stLatch] s s.tickSt := by
  obtain ⟨-, -, hu, -⟩ | ⟨-, -, -, -, h⟩ | ⟨-, h⟩ := tickSt_cases s
  · rw [hg] at hu; cases hu
  · exact h ▸ latch_changesOnly _ s
  · exact h.symm ▸ changesOnly_refl _ s

theorem tickSt_changesOnly (s : State) : ChangesOnly [.st, .stLatch, .postStopSt] s s.tickSt := by
  cases hg : s.cfg.soundTimerGuarded with
  | true => exact changesOnly_of_subset (tickSt_guarded_changesOnly hg) (by simp)
  | false => exact changesOnly_of_subset (tickSt_unguarded_changesOnly hg) (by simp)

theorem stWrite_changesOnly (s : State) : ChangesOnly [.st, .stLatch, .postStopSt] s s.stWrite := by
  obtain ⟨l, -, -, h⟩ | ⟨-, h⟩ := stWrite_cases s
  · rw [h]
    exact changesOnly_of_subset
      (changesOnly_trans (latch_changesOnly none s) (decrementSt_changesOnly (l - 1) _)) (by simp)
  · exact h.symm ▸ changesOnly_refl _ s

/-- The step of an agent with frame `ps` also uses up the turn. -/
theorem changesOnly_of_popSchedule {ps : List Part} {s t : State} (h : ChangesOnly ps s.popSchedule t) :
    ChangesOnly (ps ++ [.schedule]) s t :=
  changesOnly_of_subset (changesOnly_trans (popSchedule_changesOnly s) h) (by simp)

/-- Settles O54: the frame of each timer agent. -/
theorem timerAgentsTouchOnlyTimers : Obligations.TimerAgentsTouchOnlyTimers := by
  intro s t hstep
  refine ⟨fun hagent => ?_, fun hagent => ?_⟩
  · obtain rfl : s.popSchedule.tickDt = t := by simpa [step_tickDt hagent] using hstep
    exact changesOnly_of_popSchedule (tickDt_changesOnly _)
  · rcases hagent with hagent | hagent
    · obtain rfl : s.popSchedule.tickSt = t := by simpa [step_tickSt hagent] using hstep
      exact changesOnly_of_popSchedule (tickSt_changesOnly _)
    · obtain rfl : s.popSchedule.stWrite = t := by simpa [step_stWrite hagent] using hstep
      exact changesOnly_of_popSchedule (stWrite_changesOnly _)

/-- Settles O53: by mode and agent, each clause is one of the cases above. -/
theorem soundTimerSteps : Obligations.SoundTimerSteps := by
  refine fun s => ⟨fun hagent hg => ?guarded, fun hagent hg => ?unguarded, fun hagent hg => ?write⟩
  case guarded =>
    refine ⟨_, step_tickSt hagent, fun hgate hst => ?_, fun hoff => ?_,
      changesOnly_of_popSchedule (tickSt_guarded_changesOnly hg)⟩
    · rw [tickSt_of_guarded (s := s.popSchedule) hgate hst hg]
      exact ⟨toNat_sub_one_add_one hst, rfl⟩
    · rw [tickSt_of_idle (s := s.popSchedule) (hoff.imp_right .inl)]
      exact ⟨rfl, rfl⟩
  case unguarded =>
    refine ⟨_, step_tickSt hagent, fun hgate hst hl => ?_, fun hoff => ?_,
      changesOnly_of_popSchedule (tickSt_unguarded_changesOnly hg)⟩
    · rw [tickSt_of_unguarded (s := s.popSchedule) hgate hst hg hl]
      rfl
    · rw [tickSt_of_idle (s := s.popSchedule) (hoff.imp_right (.imp_right fun hl => ⟨hg, hl⟩)),
        State.popSchedule_stLatch]
  case write =>
    refine ⟨_, step_stWrite hagent, fun l hl => ?_, fun hl => ?_, changesOnly_of_popSchedule (stWrite_changesOnly _)⟩
    · rw [stWrite_of_latched (s := s.popSchedule) hg hl]
      exact ⟨rfl, rfl, rfl⟩
    · rw [stWrite_of_disabled (s := s.popSchedule) (.inr hl)]
      exact popSchedule_changesOnly s

/-- Settles O55: the write phase writes back the value latched before the instruction. -/
theorem unguardedSoundWriteIsLost : Obligations.UnguardedSoundWriteIsLost := by
  intro x s hg hrun hl hst
  have hwrite {u : State} (hu : u.cfg.soundTimerGuarded = false) (hlatch : u.stLatch = some s.st) :
      u.stWrite.st = s.st - 1 ∧ u.stWrite.stLatch = none := by
    rw [stWrite_of_latched hu hlatch]
    exact ⟨rfl, rfl⟩
  rw [tickSt_of_unguarded (.inl hrun) hst hg hl]
  exact ⟨_, rfl, rfl, hwrite hg rfl⟩

/-! ### The post-stop permissions -/

/-- The loop's step gives both permissions where it ends the run, and leaves them alone where it does not (R261). -/
theorem step_loop_postStop {s t : State} (hagent : s.nextAgent = .loop) (hstep : step s = .next t) :
    (t.runState ≠ .running ∧ t.postStopDt = true ∧ t.postStopSt = true) ∨
      (t.runState = .running ∧ t.postStopDt = s.postStopDt ∧ t.postStopSt = s.postStopSt) := by
  obtain ⟨-, hrun, ⟨-, rfl⟩ | ⟨-, w, -, ⟨r, -, rfl⟩ | ⟨i, -, hexec⟩⟩⟩ | ⟨h, -⟩ | ⟨h, -⟩ | ⟨h, -⟩ | ⟨image, h, -⟩ :=
    step_cases hstep
  · exact .inl ⟨by simp, rfl, rfl⟩
  · exact .inl ⟨by simp, rfl, rfl⟩
  · obtain ⟨-, hsame, -, hdt, hst⟩ | ⟨-, -, hhalt, hdt, hst⟩ | ⟨-, -, hdt, hst, k, ⟨hfault, -⟩, -⟩ :=
      exec_runState_cases hexec
    · exact .inr ⟨hsame.trans hrun, hdt, hst⟩
    · exact .inl ⟨by simp [hhalt], hdt, hst⟩
    · exact .inl ⟨by simp [hfault], hdt, hst⟩
  all_goals rw [hagent] at h; cases h

/-- Settles O52: the loop's step gives the permissions, a decrement of the delay timer takes its own away. -/
theorem postStopPermission : Obligations.PostStopPermission := by
  intro s t hstep
  have hloop (hagent : s.nextAgent = .loop) := step_loop_postStop hagent hstep
  have htick (hagent : s.nextAgent = .tickDt) : s.popSchedule.tickDt = t := by
    simpa [step_tickDt hagent] using hstep
  refine ⟨fun hagent hne => ?_, fun hagent hrun => ?_, fun hagent hne => ?_, fun hagent heq => ?_⟩
  · exact (hloop hagent).elim And.right fun h => absurd h.1 hne
  · exact (hloop hagent).elim (fun h => absurd hrun h.1) And.right
  · obtain rfl := htick hagent
    obtain ⟨-, -, h⟩ | ⟨-, h⟩ := tickDt_cases s.popSchedule
    · rw [h]
    · rw [h] at hne
      exact absurd rfl hne
  · obtain rfl := htick hagent
    obtain ⟨-, hdt, h⟩ | ⟨-, h⟩ := tickDt_cases s.popSchedule
    · rw [h] at heq
      have := toNat_sub_one_add_one hdt
      rw [show s.popSchedule.dt - 1 = s.popSchedule.dt from heq] at this
      omega
    · rw [h, State.popSchedule_postStopDt]

end Sys2Proof.Proofs
end

section
/-! PROOFS. The values of a reset, from any state, with an accepted and with a malformed image (R50, R280-R285), and the
codes on the status outputs (R34, R35, R41, R241). -/

namespace Sys2Proof.Proofs

open Sys2Proof Sys2Proof.Machine

/-! ### Memory after a reset -/

theorem resetByte_of_lt (c : Config) {a : Nat} (h : a < 80) : resetByte c a = c.glyphRom[a] :=
  dif_pos h

theorem resetByte_of_ge (c : Config) {a : Nat} (h : 80 ≤ a) : resetByte c a = 0 :=
  dif_neg (by omega)

/-- A reset that loads no byte leaves every address at its reset contents (R281, R284). -/
theorem zeroed_readByte (s : State) (a : Nat) : s.zeroed.readByte a = resetByte s.cfg a := rfl

theorem zeroed_getV (s : State) (x : Reg) : s.zeroed.getV x = 0 := Vector.getElem_replicate x.isLt

theorem zeroed_stack (s : State) (k : Reg) : s.zeroed.stack[k] = 0 := Vector.getElem_replicate k.isLt

/-- Settles O57: the fields by definition, memory by the reset contents. -/
theorem resetValues : Obligations.ResetValues := by
  refine ⟨rfl, rfl, rfl, zeroed_getV State.reset, zeroed_stack State.reset, rfl, rfl, rfl, rfl, rfl, rfl, rfl, rfl,
    fun a ha => ?_, fun a ha => ?_⟩
  · exact resetByte_of_ge _ ha
  · exact resetByte_of_lt _ ha

/-! ### The accepted image -/

theorem loadImage_readByte_of_outside {bs : List Byte} {a c : Nat} (s : State) (h : c < a ∨ a + bs.length ≤ c) :
    (State.loadImage bs a s).readByte c = s.readByte c := by
  rw [State.loadImage_readByte, dif_neg (by omega)]

/-- Settles O59: the image is above the glyphs, and the load writes memory only. -/
theorem resetClearsState : Obligations.ResetClearsState := by
  intro s image hagent hwf
  refine ⟨_, step_rst_of_wellFormed hagent hwf, fun a ha => ?_, fun a ha hout => ?_, ?_⟩
  · rw [loadImage_readByte_of_outside _ (.inl (by omega)), zeroed_readByte, resetByte_of_lt _ ha]
    rfl
  · rw [loadImage_readByte_of_outside _ hout, zeroed_readByte, resetByte_of_ge _ ha]
  · rw [State.loadImage_mem_only]
    exact ⟨zeroed_getV s, rfl, rfl, rfl, zeroed_stack s, rfl, rfl, rfl, rfl, rfl, rfl, rfl, rfl, rfl⟩

/-! ### The malformed image and the status outputs -/

theorem imageWellFormed_eq_false {image : List Byte} (h : image.length % 2 = 1 ∨ image.length > 0xE00) :
    imageWellFormed image = false := by
  rw [imageWellFormed, Bool.and_eq_false_iff, decide_eq_false_iff_not, decide_eq_false_iff_not]
  omega

theorem rst_of_malformed {image : List Byte} (h : imageWellFormed image = false) (s : State) :
    s.rst image = { s.zeroed with runState := .faulted, faultKind := some .malformedProgramImage } := by
  rw [State.rst, h, if_neg Bool.false_ne_true]

theorem step_rst_of_malformed {s : State} {image : List Byte} (hagent : s.nextAgent = .rst image)
    (h : imageWellFormed image = false) :
    step s = .next { s.popSchedule.zeroed with runState := .faulted, faultKind := some .malformedProgramImage } := by
  rw [step, hagent, agentStep, rst_of_malformed h]

theorem faultCode_of_some {s : State} {k : FaultKind} (h : s.faultKind = some k) : s.faultCode = k.code := by
  rw [State.faultCode, h]

theorem exitStatus_of_faulted {s : State} {k : FaultKind} (hrun : s.runState = .faulted) (h : s.faultKind = some k) :
    s.exitStatus = some k.code := by
  rw [State.exitStatus, hrun, faultCode_of_some h]

/-- Settles O47: the codes by definition, the outputs by the run state and the kind that they read. -/
theorem exitStatusReportsTheFault : Obligations.ExitStatusReportsTheFault := by
  refine ⟨⟨rfl, rfl, rfl⟩, ⟨rfl, rfl, rfl, rfl, rfl, rfl⟩, fun s => ⟨fun h => ?_, fun k => faultCode_of_some⟩,
    fun s h => ?_, fun s h => ?_, fun s k => exitStatus_of_faulted⟩
  · rw [State.faultCode, h]
  · rw [State.exitStatus, h]
  · rw [State.exitStatus, h]

/-- Settles O60: the refused reset ends with the zeroed state, FAULTED. -/
theorem resetRefusesMalformedImage : Obligations.ResetRefusesMalformedImage := by
  intro s image hagent hbad
  refine ⟨_, step_rst_of_malformed hagent (imageWellFormed_eq_false hbad), rfl, rfl,
    exitStatus_of_faulted (k := .malformedProgramImage) rfl rfl, rfl, zeroed_getV s, rfl, rfl, rfl, fun a ha => ?_,
    fun a ha => ?_⟩
  · exact resetByte_of_ge s.cfg ha
  · exact resetByte_of_lt s.cfg ha

end Sys2Proof.Proofs
end

section
/-! PROOFS. Canonical memory: a list in canonical form is determined by what it reads as (R60). -/

namespace Sys2Proof.Proofs

open Sys2Proof Sys2Proof.Machine

theorem wfFrom_cons_iff (d : Nat → Byte) (lo b : Nat) (v : Byte) (m : Memory) :
    Memory.wfFrom d lo ((b, v) :: m) = true ↔ lo ≤ b ∧ b < 4096 ∧ v ≠ d b ∧ Memory.wfFrom d (b + 1) m = true := by
  simp only [Memory.wfFrom, Bool.and_eq_true, decide_eq_true_eq, and_assoc]

theorem lookup_cons_self (b : Nat) (v : Byte) (m : Memory) : Memory.lookup ((b, v) :: m) b = some v := if_pos rfl

theorem lookup_cons_of_ne {a b : Nat} (v : Byte) (m : Memory) (h : a ≠ b) :
    Memory.lookup ((b, v) :: m) a = Memory.lookup m a := if_neg h

/-- No listed byte is the one its address reads as unlisted. -/
theorem lookup_ne_default {d : Nat → Byte} {lo : Nat} {m : Memory} (h : Memory.wfFrom d lo m = true) (a : Nat) :
    Memory.lookup m a ≠ some (d a) := by
  induction m generalizing lo with
  | nil => simp [Memory.lookup]
  | cons p m ih =>
    obtain ⟨b, v⟩ := p
    obtain ⟨-, -, hv, hm⟩ := (wfFrom_cons_iff d lo b v m).mp h
    by_cases hab : a = b
    · subst hab
      rw [lookup_cons_self]
      exact fun e => hv (Option.some.inj e)
    · rw [lookup_cons_of_ne v m hab]
      exact ih hm

/-- In canonical form the read of an address says whether it is listed. -/
theorem lookup_eq_of_read_eq {d : Nat → Byte} {lo : Nat} {m n : Memory} (hm : Memory.wfFrom d lo m = true)
    (hn : Memory.wfFrom d lo n = true) {a : Nat} (h : Memory.read d m a = Memory.read d n a) :
    Memory.lookup m a = Memory.lookup n a := by
  have hm' := lookup_ne_default hm a
  have hn' := lookup_ne_default hn a
  unfold Memory.read at h
  cases hlm : Memory.lookup m a <;> cases hln : Memory.lookup n a <;> simp_all

/-- Canonical lists that list the same bytes are the same list: their least addresses agree. -/
theorem eq_of_lookup_eq {d : Nat → Byte} {lo : Nat} {m n : Memory} (hm : Memory.wfFrom d lo m = true)
    (hn : Memory.wfFrom d lo n = true) (h : ∀ a, Memory.lookup m a = Memory.lookup n a) : m = n := by
  induction m generalizing lo n with
  | nil =>
    cases n with
    | nil => rfl
    | cons q n => simpa [Memory.lookup] using h q.1
  | cons p m ih =>
    obtain ⟨b, v⟩ := p
    cases n with
    | nil => simpa [Memory.lookup] using h b
    | cons q n =>
      obtain ⟨c, u⟩ := q
      obtain ⟨-, -, -, hmtail⟩ := (wfFrom_cons_iff d lo b v m).mp hm
      obtain ⟨-, -, -, hntail⟩ := (wfFrom_cons_iff d lo c u n).mp hn
      have hb := h b
      have hc := h c
      rw [lookup_cons_self] at hb hc
      obtain hlt | rfl | hgt := Nat.lt_trichotomy b c
      · rw [lookup_cons_of_ne u n hlt.ne, Memory.lookup_lt_none d hntail (by omega)] at hb
        cases hb
      · rw [lookup_cons_self] at hb
        obtain rfl := Option.some.inj hb
        have htail (a : Nat) : Memory.lookup m a = Memory.lookup n a := by
          by_cases hab : a = b
          · rw [Memory.lookup_lt_none d hmtail (by omega), Memory.lookup_lt_none d hntail (by omega)]
          · simpa only [lookup_cons_of_ne v _ hab] using h a
        rw [ih hmtail hntail htail]
      · rw [lookup_cons_of_ne v m hgt.ne, Memory.lookup_lt_none d hmtail (by omega)] at hc
        cases hc

/-- Settles O50: equal reads are equal lookups, and these determine the list. -/
theorem canonicalMemoryIsUnique : Obligations.CanonicalMemoryIsUnique :=
  fun _ _ _ hm hn hread => eq_of_lookup_eq hm hn fun a => lookup_eq_of_read_eq hm hn (hread a)

end Sys2Proof.Proofs
end

section
/-! PROOFS. The invariant: each operation an instruction is made of keeps it, so every instruction does, and so does the
step of every agent (R26, R28, R35, R36, R38, R60, R261). -/

namespace Sys2Proof.Proofs

open Sys2Proof Sys2Proof.Machine

/-! ### Operations that keep the invariant -/

/-- The invariant does not speak of the registers, `I`, the timers' counters, the requests, the draws and the
schedule. -/
theorem inv_of_data_update {s t : State} (h : s.Inv)
    (ht : t = { s with v := t.v, i := t.i, dt := t.dt, st := t.st, dispOut := t.dispOut, draws := t.draws,
                       schedule := t.schedule }) : t.Inv := by
  rw [ht]
  exact ⟨h.memory, h.pcBound, h.returnBound, h.faultedIff, h.noPostStop, h.noOutcome, h.guardedLatch, h.latchNonzero,
    h.stoppedLatch⟩

theorem inv_of_mem_update {s t : State} (h : s.Inv) (ht : t = { s with mem := t.mem })
    (hmem : Memory.wf (resetByte s.cfg) t.mem = true) : t.Inv := by
  rw [ht]
  exact { h with memory := hmem }

theorem inv_storeBlock {s : State} (h : s.Inv) (bs : List Byte) (a : Nat) : (State.storeBlock bs a s).1.Inv :=
  inv_of_mem_update h (State.storeBlock_mem_only bs a s) (State.storeBlock_wf bs a s h.memory)

theorem inv_loadBlock {s : State} (h : s.Inv) (rs : List Reg) (a : Nat) : (State.loadBlock rs a s).1.Inv := by
  refine inv_of_data_update h ?_
  rw [State.loadBlock_v_only]

theorem inv_setPc {s : State} (h : s.Inv) {w : Word} (hw : w.toNat ≤ 0x10FE) : (s.setPc w).Inv :=
  { h with pcBound := hw }

/-- A pop leaves fewer return addresses in use. -/
theorem inv_pop {s : State} (h : s.Inv) {k : Reg} (hk : s.sp.val = k.val + 1) :
    State.Inv { s with sp := ⟨k.val, by omega⟩ } :=
  { h with returnBound := fun j hj => h.returnBound j (hk ▸ Nat.lt_succ_of_lt hj) }

/-- A push of a bounded return address: the entries below it are the old ones. -/
theorem inv_push {s : State} (h : s.Inv) {w : Word} (hw : w.toNat ≤ 0x1000) (hroom : s.sp.val < 16) :
    State.Inv { s with stack := s.stack.set s.sp.val w hroom, sp := ⟨s.sp.val + 1, by omega⟩ } := by
  refine { h with returnBound := fun j hj => ?_ }
  simp only [Fin.getElem_fin, Vector.getElem_set]
  split
  · exact hw
  · have hin : j.val < s.sp.val + 1 := hj
    exact h.returnBound j (by omega)

/-- A fault may be taken anywhere: it records its kind and gives both permissions. -/
theorem inv_takeFault {s : State} (h : s.Inv) (k : FaultKind) : (s.takeFault k).Inv :=
  { h with
    faultedIff := by simp
    noPostStop := fun hrun => by simp at hrun
    stoppedLatch := fun _ _ => rfl }

theorem inv_retire_jump {s : State} (h : s.Inv) : (s.retire .jump).Inv :=
  { h with noOutcome := rfl }

theorem inv_retire_next {s : State} (h : s.Inv) (hpc : s.pc.toNat ≤ 0xFFE) : (s.retire .next).Inv :=
  { h with
    pcBound := by rw [State.retire_pc]; bv_omega
    noOutcome := rfl }

theorem inv_retire_skip {s : State} (h : s.Inv) (hpc : s.pc.toNat ≤ 0xFFE) : (s.retire .skip).Inv :=
  { h with
    pcBound := by rw [State.retire_pc]; bv_omega
    noOutcome := rfl }

/-- HALT ends a run that is RUNNING, so no fault is held. -/
theorem inv_retire_halt {s : State} (h : s.Inv) (hrun : s.runState = .running) : (s.retire .halt).Inv := by
  have hkind : s.faultKind = none := by
    by_contra hne
    have hfaulted := h.faultedIff.mpr hne
    rw [hrun] at hfaulted
    cases hfaulted
  exact { h with
    faultedIff := by simp [hkind]
    noPostStop := fun hr => by simp at hr
    noOutcome := rfl
    stoppedLatch := fun _ _ => rfl }

theorem inv_retire_ite {s : State} (h : s.Inv) (hpc : s.pc.toNat ≤ 0xFFE) (c : Bool) :
    (s.retire (if c then .skip else .next)).Inv := by
  cases c
  · exact inv_retire_next h hpc
  · exact inv_retire_skip h hpc

/-! ### The steps -/

/-- An instruction fetched while RUNNING keeps the invariant. -/
theorem exec_keeps_inv {i : Instr} {s t : State} (h : s.Inv) (hrun : s.runState = .running)
    (hpc : s.pc.toNat ≤ 0xFFE) (hexec : exec i s = .next t) : t.Inv := by
  cases exec_cases hexec with
  | halt => exact inv_retire_halt h hrun
  | jp nnn => exact inv_retire_jump (inv_setPc h (by rw [addrWord_toNat]; omega))
  | jpV0 nnn => exact inv_retire_jump (inv_setPc h (by rw [addrWord_add_byteWord_toNat]; omega))
  | ret k hk =>
    have hret := h.returnBound k (by omega)
    exact inv_retire_jump (inv_setPc (inv_pop h hk) (by omega))
  | call nnn hroom =>
    have hnext : (s.pc + 2).toNat ≤ 0x1000 := by bv_omega
    exact inv_retire_jump (inv_setPc (inv_push h hnext hroom) (by rw [addrWord_toNat]; omega))
  | retEmpty | callFull | drwBounds | drwAbsent | keyAbsent | bcdAbsent => exact inv_takeFault h _
  | storeBounds => exact inv_takeFault (inv_storeBlock h _ _) _
  | loadBounds => exact inv_takeFault (inv_loadBlock h _ _) _
  | store =>
    refine inv_retire_next (inv_storeBlock h _ _) ?_
    rwa [State.storeBlock_mem_only]
  | load =>
    refine inv_retire_next (inv_loadBlock h _ _) ?_
    rwa [State.loadBlock_v_only]
  | skip i c => exact inv_retire_ite h hpc c
  | keySkip i c => exact inv_retire_ite (inv_of_data_update (t := s.dropKeys) h rfl) hpc c
  | keyWait => exact inv_retire_jump (inv_of_data_update h rfl)
  | _ => exact inv_retire_next (inv_of_data_update h rfl) hpc

theorem tickDt_keeps_inv {s : State} (h : s.Inv) : s.tickDt.Inv := by
  obtain ⟨-, -, ht⟩ | ⟨-, ht⟩ := tickDt_cases s
  · rw [ht]
    exact { h with noPostStop := fun hrun => ⟨rfl, (h.noPostStop hrun).2⟩ }
  · rwa [ht]

/-- A decrement happens with an empty latch, and the latch fills where a permission is left. -/
theorem tickSt_keeps_inv {s : State} (h : s.Inv) : s.tickSt.Inv := by
  obtain ⟨-, -, hg, ht⟩ | ⟨hgate, hst, hg, -, ht⟩ | ⟨-, ht⟩ := tickSt_cases s
  · rw [ht]
    exact { h with
      noPostStop := fun hrun => ⟨(h.noPostStop hrun).1, rfl⟩
      stoppedLatch := fun _ hl => absurd (h.guardedLatch hg) hl }
  · rw [ht]
    exact { h with
      guardedLatch := fun hg' => by simp [hg] at hg'
      latchNonzero := fun e => hst (Option.some.inj e)
      stoppedLatch := fun hstop _ => hgate.resolve_left hstop }
  · rwa [ht]

theorem stWrite_keeps_inv {s : State} (h : s.Inv) : s.stWrite.Inv := by
  obtain ⟨l, -, -, ht⟩ | ⟨-, ht⟩ := stWrite_cases s
  · rw [ht]
    exact { h with
      noPostStop := fun hrun => ⟨(h.noPostStop hrun).1, rfl⟩
      guardedLatch := fun _ => rfl
      latchNonzero := by simp
      stoppedLatch := fun _ hl => absurd rfl hl }
  · rwa [ht]

/-- A reset sets up the invariant, whatever the state was. -/
theorem zeroed_inv (s : State) : s.zeroed.Inv where
  memory := Memory.wf_nil _
  pcBound := (by decide : (0x200 : Word).toNat ≤ 0x10FE)
  returnBound := fun k hk => absurd hk (Nat.not_lt_zero _)
  faultedIff := by simp [State.zeroed, State.reset]
  noPostStop := fun _ => ⟨rfl, rfl⟩
  noOutcome := rfl
  guardedLatch := fun _ => rfl
  latchNonzero := by simp [State.zeroed, State.reset]
  stoppedLatch := fun hstop => absurd rfl hstop

theorem rst_inv (image : List Byte) (s : State) : (s.rst image).Inv := by
  cases hwf : imageWellFormed image with
  | true =>
    have hfits : 0x200 + image.length ≤ 4096 := by
      rw [imageWellFormed, Bool.and_eq_true, decide_eq_true_eq, decide_eq_true_eq] at hwf
      omega
    rw [rst_of_wellFormed hwf]
    exact inv_of_mem_update (zeroed_inv s) (State.loadImage_mem_only _ _ _)
      (State.loadImage_wf image 0x200 s.zeroed hfits (Memory.wf_nil _))
  | false =>
    rw [rst_of_malformed hwf]
    exact { zeroed_inv s with
      faultedIff := by simp
      noPostStop := fun _ => ⟨rfl, rfl⟩
      stoppedLatch := fun _ hl => absurd rfl hl }

/-- Settles O49: the reset state is what a reset makes of it. -/
theorem resetMeetsInvariant : Obligations.ResetMeetsInvariant := zeroed_inv State.reset

/-- Settles O48: agent by agent; using up the turn is an update the invariant does not see. -/
theorem stepKeepsInvariant : Obligations.StepKeepsInvariant := by
  intro s t hinv hstep
  have h : s.popSchedule.Inv := inv_of_data_update hinv rfl
  obtain ⟨-, hrun, ⟨-, rfl⟩ | ⟨hpc, w, -, ⟨r, -, rfl⟩ | ⟨i, -, hexec⟩⟩⟩ | ⟨-, rfl⟩ | ⟨-, rfl⟩ | ⟨-, rfl⟩ |
    ⟨image, -, rfl⟩ := step_cases hstep
  · exact inv_takeFault h _
  · exact inv_takeFault h _
  · exact exec_keeps_inv h hrun (Nat.le_of_succ_le_succ hpc) hexec
  · exact tickDt_keeps_inv h
  · exact tickSt_keeps_inv h
  · exact stWrite_keeps_inv h
  · exact rst_inv image _

end Sys2Proof.Proofs
end

section
/-! PROOFS. After the stop: no agent but the timers' has a step, each timer decrements at most once (R101, R261, R266),
and how the run state moves (R100). -/

namespace Sys2Proof.Proofs

open Sys2Proof Sys2Proof.Machine

/-! ### The stopped run -/

/-- In a stopped run a step that is not a reset is a timer agent's (R101). -/
theorem stopped_step_cases {s t : State} (hstop : s.runState ≠ .running) (hrst : ∀ image, s.nextAgent ≠ .rst image)
    (hstep : step s = .next t) :
    t = s.popSchedule.tickDt ∨ t = s.popSchedule.tickSt ∨ t = s.popSchedule.stWrite := by
  obtain ⟨-, hrun, -⟩ | ⟨-, ht⟩ | ⟨-, ht⟩ | ⟨-, ht⟩ | ⟨image, hagent, -⟩ := step_cases hstep
  · exact absurd hrun hstop
  · exact .inl ht
  · exact .inr (.inl ht)
  · exact .inr (.inr ht)
  · exact absurd hagent (hrst image)

/-- A step of the stopped run leaves all but the timers' own fields alone (R33). -/
theorem stopped_step_changesOnly {s t : State} (hstop : s.runState ≠ .running)
    (hrst : ∀ image, s.nextAgent ≠ .rst image) (hstep : step s = .next t) :
    ChangesOnly [.dt, .st, .stLatch, .postStopDt, .postStopSt, .schedule] s t := by
  obtain rfl | rfl | rfl := stopped_step_cases hstop hrst hstep
  · exact changesOnly_of_subset (changesOnly_of_popSchedule (tickDt_changesOnly _)) (by simp)
  · exact changesOnly_of_subset (changesOnly_of_popSchedule (tickSt_changesOnly _)) (by simp)
  · exact changesOnly_of_subset (changesOnly_of_popSchedule (stWrite_changesOnly _)) (by simp)

/-- Settles O9: the loop's absent step by the run state, every other step by the timers' frames. -/
theorem stoppedRunHasNoLoopStep : Obligations.StoppedRunHasNoLoopStep := by
  refine fun s => ⟨fun hrun hagent => ?_, fun hrun hagent => ?_, fun hstop t hstep hrst =>
    stopped_step_changesOnly hstop hrst hstep⟩
  · simp only [step, hagent, agentStep, loopStep, State.popSchedule_runState, hrun]
  · simp only [step, hagent, agentStep, loopStep, State.popSchedule_runState, hrun]

/-! ### At most one decrement -/

/-- The delay timer in a step of the stopped run: as before, or its one decrement, which takes its permission away. -/
theorem stopped_step_dt {s t : State} (hstop : s.runState ≠ .running) (hrst : ∀ image, s.nextAgent ≠ .rst image)
    (hstep : step s = .next t) :
    (t.dt = s.dt ∧ t.postStopDt = s.postStopDt) ∨
      (s.postStopDt = true ∧ s.dt ≠ 0 ∧ t.dt = s.dt - 1 ∧ t.postStopDt = false) := by
  obtain rfl | rfl | rfl := stopped_step_cases hstop hrst hstep
  · obtain ⟨hgate, hdt, h⟩ | ⟨-, h⟩ := tickDt_cases s.popSchedule
    · rw [h]
      exact .inr ⟨hgate.resolve_left hstop, hdt, rfl, rfl⟩
    · rw [h]
      exact .inl ⟨rfl, rfl⟩
  · have hframe := tickSt_changesOnly s.popSchedule
    exact .inl ⟨hframe .dt (by simp), hframe .postStopDt (by simp)⟩
  · have hframe := stWrite_changesOnly s.popSchedule
    exact .inl ⟨hframe .dt (by simp), hframe .postStopDt (by simp)⟩

/-- The value the sound timer's coming decrement starts from: the latched one, else the counter's (R257-R259). -/
def soundSource (s : State) : Byte := s.stLatch.getD s.st

/-- The sound timer in a step of the stopped run: a permission, a source and a counter as before, or the one decrement
from the source, which takes the permission away. -/
theorem stopped_step_st {s t : State} (hinv : s.Inv) (hstop : s.runState ≠ .running)
    (hrst : ∀ image, s.nextAgent ≠ .rst image) (hstep : step s = .next t) :
    (t.st = s.st ∧ t.postStopSt = s.postStopSt ∧ soundSource t = soundSource s) ∨
      (s.postStopSt = true ∧ soundSource s ≠ 0 ∧ t.st = soundSource s - 1 ∧ t.postStopSt = false) := by
  obtain rfl | rfl | rfl := stopped_step_cases hstop hrst hstep
  · have hframe := tickDt_changesOnly s.popSchedule
    have hst : s.popSchedule.tickDt.st = s.st := hframe .st (by simp)
    have hl : s.popSchedule.tickDt.stLatch = s.stLatch := hframe .stLatch (by simp)
    exact .inl ⟨hst, hframe .postStopSt (by simp), by rw [soundSource, hl, hst, soundSource]⟩
  · obtain ⟨hgate, hst, hg, h⟩ | ⟨-, -, -, hl, h⟩ | ⟨-, h⟩ := tickSt_cases s.popSchedule
    · have hsource : soundSource s = s.st := by rw [soundSource, hinv.guardedLatch hg, Option.getD_none]
      rw [h, hsource]
      exact .inr ⟨hgate.resolve_left hstop, hst, rfl, rfl⟩
    · have hsource : soundSource s = s.st := by rw [soundSource, show s.stLatch = none from hl, Option.getD_none]
      rw [h, hsource]
      exact .inl ⟨rfl, rfl, rfl⟩
    · rw [h]
      exact .inl ⟨rfl, rfl, rfl⟩
  · obtain ⟨l, hg, hl, h⟩ | ⟨-, h⟩ := stWrite_cases s.popSchedule
    · have hlatch : s.stLatch = some l := hl
      have hsource : soundSource s = l := by rw [soundSource, hlatch, Option.getD_some]
      have hl0 : l ≠ 0 := fun e => hinv.latchNonzero (e ▸ hlatch)
      rw [h, hsource]
      exact .inr ⟨hinv.stoppedLatch hstop (by simp [hlatch]), hl0, rfl, rfl⟩
    · rw [h]
      exact .inl ⟨rfl, rfl, rfl⟩

/-- Where no reset is scheduled, none is next. -/
theorem nextAgent_ne_rst {s : State} (h : ∀ image, .rst image ∉ s.schedule) (image : List Byte) :
    s.nextAgent ≠ .rst image := by
  intro hagent
  cases hs : s.schedule with
  | nil => simp [State.nextAgent, hs] at hagent
  | cons a rest =>
    have ha : a = .rst image := by simpa [State.nextAgent, hs] using hagent
    exact h image (by rw [hs, ha]; exact List.mem_cons_self)

/-- A step of the stopped run only takes its turn off the schedule. -/
theorem stopped_step_schedule {s t : State} (hstop : s.runState ≠ .running)
    (hrst : ∀ image, s.nextAgent ≠ .rst image) (hstep : step s = .next t) : t.schedule = s.schedule.tail := by
  obtain rfl | rfl | rfl := stopped_step_cases hstop hrst hstep
  · exact tickDt_changesOnly s.popSchedule .schedule (by simp)
  · exact tickSt_changesOnly s.popSchedule .schedule (by simp)
  · exact stWrite_changesOnly s.popSchedule .schedule (by simp)

/-- Settles O56, by induction on the run: a decrement takes the permission of any later one away. -/
theorem atMostOneDecrementAfterStop : Obligations.AtMostOneDecrementAfterStop := by
  intro n
  induction n with
  | zero =>
    intro s t _ _ _ hrun
    obtain rfl : s = t := by injection hrun
    exact ⟨.inl rfl, .inl rfl⟩
  | succ n ih =>
    intro s t hinv hstop hsched hrun
    obtain ⟨u, hstep, hrest⟩ := run_cons hrun
    have hrst := nextAgent_ne_rst hsched
    have hstopped : u.runState = s.runState := stopped_step_changesOnly hstop hrst hstep .runState (by simp)
    have hsched' (image : List Byte) : .rst image ∉ u.schedule := by
      rw [stopped_step_schedule hstop hrst hstep]
      exact fun hmem => hsched image (List.mem_of_mem_tail hmem)
    obtain ⟨hdt, hst⟩ := ih u t (stepKeepsInvariant s u hinv hstep) (hstopped ▸ hstop) hsched' hrest
    constructor
    · obtain ⟨hsame, hperm⟩ | ⟨hperm, hne, hdec, hused⟩ := stopped_step_dt hstop hrst hstep
      · rwa [hsame, hperm] at hdt
      · exact .inr ⟨hperm, hne, (hdt.resolve_right (by simp [hused])).trans hdec⟩
    · change t.st = u.st ∨ (u.postStopSt = true ∧ soundSource u ≠ 0 ∧ t.st = soundSource u - 1) at hst
      obtain ⟨hsame, hperm, hsource⟩ | ⟨hperm, hne, hdec, hused⟩ := stopped_step_st hinv hstop hrst hstep
      · rwa [hsame, hperm, hsource] at hst
      · exact .inr ⟨hperm, hne, (hst.resolve_right (by simp [hused])).trans hdec⟩

/-! ### The run state's transitions -/

theorem rst_runState_of_wellFormed {image : List Byte} (h : imageWellFormed image = true) (s : State) :
    (s.rst image).runState = .running := by
  rw [rst_of_wellFormed h, State.loadImage_mem_only]
  rfl

theorem rejectKind_ne_malformed (c : Config) (r : DecodeReject) : rejectKind c r ≠ .malformedProgramImage := by
  cases r with
  | familyE => rw [rejectKind]; split <;> decide
  | _ => simp [rejectKind]

theorem step_rst {s : State} {image : List Byte} (hagent : s.nextAgent = .rst image) :
    step s = .next (s.popSchedule.rst image) := by
  rw [step, hagent, agentStep]

/-- Settles O10: resets by the image check; of the other steps only the loop's moves the run state, by a fault at the
fetch or the decoder, by HALT, or by the instruction's fault. -/
theorem runStateTransitions : Obligations.RunStateTransitions := by
  intro s t hstep
  refine ⟨fun image hagent => ?_, fun hrst hmove => ?_⟩
  · obtain rfl : s.popSchedule.rst image = t := by simpa [step_rst hagent] using hstep
    refine ⟨fun hwf => rst_runState_of_wellFormed hwf _, fun hbad => ?_⟩
    rw [rst_of_malformed hbad]
    exact ⟨rfl, rfl⟩
  · obtain ⟨hagent, hrun, ⟨-, rfl⟩ | ⟨hpc, w, rfl, ⟨r, -, rfl⟩ | ⟨i, hdecode, hexec⟩⟩⟩ | ⟨-, rfl⟩ | ⟨-, rfl⟩ |
      ⟨-, rfl⟩ | ⟨image, hagent, -⟩ := step_cases hstep
    · exact ⟨hrun, hagent, .inr ⟨rfl, _, rfl, by decide⟩⟩
    · exact ⟨hrun, hagent, .inr ⟨rfl, _, rfl, rejectKind_ne_malformed _ r⟩⟩
    · obtain ⟨-, hsame, -⟩ | ⟨rfl, -, hhalt, -⟩ | ⟨-, -, -, -, k, ⟨hfaulted, hkind⟩, hk⟩ := exec_runState_cases hexec
      · exact absurd hsame hmove
      · have hfetch : s.fetch = .ok (encode .halt) := by rw [encode_of_decodeWord hdecode, State.fetch_ok hpc]
        exact ⟨hrun, hagent, .inl ⟨hhalt, hfetch⟩⟩
      · exact ⟨hrun, hagent, .inr ⟨hfaulted, k, hkind, hk⟩⟩
    · exact absurd (tickDt_changesOnly s.popSchedule .runState (by simp)) hmove
    · exact absurd (tickSt_changesOnly s.popSchedule .runState (by simp)) hmove
    · exact absurd (stWrite_changesOnly s.popSchedule .runState (by simp)) hmove
    · exact absurd hagent (hrst image)

end Sys2Proof.Proofs
end

section
/-! PROOFS. The loop's step as a fetch, a decode and an instruction: a word that names an instruction, a fetch past
memory, and a word that names none (R91, R94, R102-R106). -/

namespace Sys2Proof.Proofs

open Sys2Proof Sys2Proof.Machine

/-- With `PC` in bounds the loop runs the word of the two bytes there, with its turn used up. -/
theorem step_runs_word {s : State} (hrun : s.runState = .running) (hagent : s.nextAgent = .loop)
    (hpc : s.pc.toNat ≤ 0xFFE) :
    step s = runWord (wordOfBytes (s.readByte s.pc.toNat) (s.readByte (s.pc.toNat + 1))) s.popSchedule := by
  have hfetch := State.fetch_ok (s := s.popSchedule) (Nat.succ_le_succ hpc)
  simp only [step, hagent, agentStep, loopStep, State.popSchedule_runState, hrun, hfetch, State.popSchedule_pc,
    State.popSchedule_readByte]

/-- Settles O6: two bytes decode as the word they make. -/
theorem stepRunsDecodedInstruction : Obligations.StepRunsDecodedInstruction := by
  intro s i hrun hagent hpc hdecode _
  rw [decodeBytes] at hdecode
  rw [step_runs_word hrun hagent hpc, runWord, hdecode]

/-- Settles O7: the fault is taken with the turn used up, nothing else is written. -/
theorem fetchPastMemoryFaults : Obligations.FetchPastMemoryFaults :=
  fun s hrun hagent hpc => ⟨_, step_fetch_fault hrun hagent hpc, takesFault_takeFault _ s.popSchedule⟩

theorem wordOfBytes_toNat (hi lo : Byte) : (wordOfBytes hi lo).toNat = hi.toNat * 0x100 + lo.toNat := by
  rw [wordOfBytes, BitVec.toNat_append, ← Nat.shiftLeft_add_eq_or_of_lt lo.isLt, Nat.shiftLeft_eq]

/-- The family is the high byte's high nibble (R63, R86). -/
theorem wordOfBytes_family (hi lo : Byte) : (wordOfBytes hi lo).toNat / 0x1000 = hi.toNat / 0x10 := by
  rw [wordOfBytes_toNat]
  omega

/-- The fault of a rejected word as a function of its family (R91, R224). -/
theorem rejectKind_of_rejectedAs {w : Word} {r : DecodeReject} (h : RejectedAs w r) (c : Config) :
    rejectKind c r =
      if w.toNat / 0x1000 = 0x0 then .unimplementedOpcode
      else if w.toNat / 0x1000 = 0xE ∧ c.keypadPresent = false then .unimplementedOpcode
      else .unrecognizedOpcode := by
  cases r with
  | truncated => exact h.elim
  | familyE =>
    obtain ⟨hf, -⟩ := h
    cases hk : c.keypadPresent <;> simp [rejectKind, hf, hk]
  | _ =>
    obtain ⟨hf, -⟩ := h
    simp [rejectKind, hf]

/-- Settles O8: the word is in R91's table, and its row gives the family. -/
theorem unmatchedWordFaults : Obligations.UnmatchedWordFaults := by
  intro s r hrun hagent hpc hdecode
  rw [decodeBytes] at hdecode
  have hkind := rejectKind_of_rejectedAs ((decodeWord_eq_error_iff _ r).mp hdecode) s.cfg
  rw [wordOfBytes_family] at hkind
  refine ⟨s.popSchedule.takeFault (rejectKind s.cfg r), ?_, hkind ▸ takesFault_takeFault _ s.popSchedule⟩
  rw [step_runs_word hrun hagent hpc, runWord, hdecode, State.popSchedule_cfg]

end Sys2Proof.Proofs
end

section
/-! PROOFS. The `DEBUG` parameter: every operation commutes with a change of it, so no step depends on it (R111,
R265). -/

namespace Sys2Proof.Proofs

open Sys2Proof Sys2Proof.Machine

theorem withDebug_blockBase (b : Bool) (s : State) : (s.withDebug b).blockBase = s.blockBase := rfl

theorem withDebug_keysDraw (b : Bool) (s : State) : (s.withDebug b).keysDraw = s.keysDraw := rfl

theorem readRows_withDebug (b : Bool) (n a : Nat) (s : State) :
    State.readRows n a (s.withDebug b) = State.readRows n a s := by
  simp only [State.readRows_eq, State.withDebug_readByte]

theorem storeBlock_withDebug (b : Bool) (bs : List Byte) (a : Nat) (s : State) :
    State.storeBlock bs a (s.withDebug b) = ((State.storeBlock bs a s).1.withDebug b, (State.storeBlock bs a s).2) := by
  induction bs generalizing a s with
  | nil => rfl
  | cons c bs ih =>
    by_cases ha : a > 0xFFF
    · simp only [State.storeBlock, State.memWrite, if_pos ha]
    · simp only [State.storeBlock, State.memWrite, if_neg ha]
      exact ih (a + 1) (s.writeByte a c)

theorem loadBlock_withDebug (b : Bool) (rs : List Reg) (a : Nat) (s : State) :
    State.loadBlock rs a (s.withDebug b) = ((State.loadBlock rs a s).1.withDebug b, (State.loadBlock rs a s).2) := by
  induction rs generalizing a s with
  | nil => rfl
  | cons r rs ih =>
    by_cases ha : a > 0xFFF
    · simp only [State.loadBlock, State.memRead, if_pos ha]
    · simp only [State.loadBlock, State.memRead, if_neg ha]
      exact ih (a + 1) (s.setV r (s.readByte a))

theorem finishBlock_withDebug (b : Bool) (r : State × Option FaultKind) :
    finishBlock (r.1.withDebug b, r.2) = mapNext (State.withDebug b) (finishBlock r) := by
  obtain ⟨u, _ | k⟩ := r <;> rfl

theorem finishStore_withDebug (b : Bool) (bs : List Byte) (s : State) :
    finishBlock (State.storeBlock bs (s.withDebug b).blockBase (s.withDebug b)) =
      mapNext (State.withDebug b) (finishBlock (State.storeBlock bs s.blockBase s)) := by
  rw [withDebug_blockBase, storeBlock_withDebug, finishBlock_withDebug]

theorem loadImage_withDebug (b : Bool) (bs : List Byte) (a : Nat) (s : State) :
    State.loadImage bs a (s.withDebug b) = (State.loadImage bs a s).withDebug b := by
  induction bs generalizing a s with
  | nil => rfl
  | cons c bs ih => exact ih (a + 1) (s.writeByte a c)

theorem skipIf_withDebug (b c : Bool) (s : State) :
    skipIf c (s.withDebug b) = mapNext (State.withDebug b) (skipIf c s) := by
  cases c <;> rfl

/-- No instruction depends on `DEBUG`. -/
theorem exec_withDebug (b : Bool) (i : Instr) (s : State) :
    exec i (s.withDebug b) = mapNext (State.withDebug b) (exec i s) := by
  cases i with
  | ret =>
    by_cases h : s.sp.val = 0
    · rw [exec_ret_empty h, exec_ret_empty (s := s.withDebug b) h]
      rfl
    · simp only [exec, execRet, State.pop_of_ne h, State.pop_of_ne (s := s.withDebug b) h]
      rfl
  | call nnn =>
    by_cases h : s.sp.val < 16
    · simp only [exec, execCall, State.push_of_lt h, State.push_of_lt (s := s.withDebug b) h]
      rfl
    · simp only [exec, execCall, State.push_full h, State.push_full (s := s.withDebug b) h]
      rfl
  | seVxKk | sneVxKk | seVxVy | sneVxVy => exact skipIf_withDebug b _ s
  | drw x y n =>
    cases hd : s.cfg.displayPresent <;> simp only [exec, execDrw, State.withDebug_cfg, hd, readRows_withDebug]
    · rfl
    · cases hr : State.readRows n.toNat s.blockBase s <;> simp only [withDebug_blockBase, hr] <;> rfl
  | skp x =>
    cases hk : s.cfg.keypadPresent <;> simp only [exec, execSkp, State.withDebug_cfg, hk]
    · rfl
    · exact skipIf_withDebug b _ s.dropKeys
  | sknp x =>
    cases hk : s.cfg.keypadPresent <;> simp only [exec, execSknp, State.withDebug_cfg, hk]
    · rfl
    · exact skipIf_withDebug b _ s.dropKeys
  | ldVxK x =>
    cases hk : s.cfg.keypadPresent <;> simp only [exec, execLdVxK, State.withDebug_cfg, hk]
    · rfl
    · cases hl : lowestKey s.keysDraw <;> simp only [withDebug_keysDraw, hl] <;> rfl
  | ldBVx x =>
    cases hd : s.cfg.bcdImplemented <;> simp only [exec, execLdBVx, State.withDebug_cfg, hd]
    · rfl
    · exact finishStore_withDebug b _ s
  | ldMemVx x => exact finishStore_withDebug b _ s
  | ldVxMem x =>
    simp only [exec, execLdVxMem, withDebug_blockBase, loadBlock_withDebug, finishBlock_withDebug]
  | _ => rfl

/-! ### The agents -/

theorem tickDt_withDebug (b : Bool) (s : State) : (s.withDebug b).tickDt = s.tickDt.withDebug b := by
  obtain ⟨hgate, hdt, h⟩ | ⟨hidle, h⟩ := tickDt_cases s
  · rw [h, tickDt_of_enabled (s := s.withDebug b) hgate hdt]
    rfl
  · rw [h, tickDt_of_disabled (s := s.withDebug b) hidle]

theorem tickSt_withDebug (b : Bool) (s : State) : (s.withDebug b).tickSt = s.tickSt.withDebug b := by
  obtain ⟨hgate, hst, hg, h⟩ | ⟨hgate, hst, hg, hl, h⟩ | ⟨hidle, h⟩ := tickSt_cases s
  · rw [h, tickSt_of_guarded (s := s.withDebug b) hgate hst hg]
    rfl
  · rw [h, tickSt_of_unguarded (s := s.withDebug b) hgate hst hg hl]
    rfl
  · rw [h, tickSt_of_idle (s := s.withDebug b) hidle]

theorem stWrite_withDebug (b : Bool) (s : State) : (s.withDebug b).stWrite = s.stWrite.withDebug b := by
  obtain ⟨l, hg, hl, h⟩ | ⟨hidle, h⟩ := stWrite_cases s
  · rw [h, stWrite_of_latched (s := s.withDebug b) hg hl]
    rfl
  · rw [h, stWrite_of_disabled (s := s.withDebug b) hidle]

theorem rst_withDebug (b : Bool) (image : List Byte) (s : State) :
    (s.withDebug b).rst image = (s.rst image).withDebug b := by
  cases hwf : imageWellFormed image with
  | true =>
    rw [rst_of_wellFormed hwf, rst_of_wellFormed hwf]
    exact loadImage_withDebug b image 0x200 s.zeroed
  | false =>
    rw [rst_of_malformed hwf, rst_of_malformed hwf]
    rfl

theorem runWord_withDebug (b : Bool) (w : Word) (s : State) :
    runWord w (s.withDebug b) = mapNext (State.withDebug b) (runWord w s) := by
  cases hd : decodeWord w with
  | ok i => simp only [runWord, hd, exec_withDebug]
  | error r =>
    simp only [runWord, hd]
    cases r <;> rfl

theorem loopStep_withDebug (b : Bool) (s : State) :
    loopStep (s.withDebug b) = mapNext (State.withDebug b) (loopStep s) := by
  have hfetch : (s.withDebug b).fetch = s.fetch := rfl
  cases hrun : s.runState with
  | halted | faulted => simp only [loopStep, State.withDebug_runState, hrun, mapNext]
  | running =>
    simp only [loopStep, State.withDebug_runState, hrun, hfetch]
    cases hf : s.fetch with
    | error k => rfl
    | ok w => exact runWord_withDebug b w s

/-- Settles O46: agent by agent. -/
theorem debugHasNoEffect : Obligations.DebugHasNoEffect := by
  intro b s
  have hagent : (s.withDebug b).nextAgent = s.nextAgent := rfl
  have hpop : (s.withDebug b).popSchedule = s.popSchedule.withDebug b := rfl
  rw [step, step, hagent, hpop]
  cases s.nextAgent with
  | loop => exact loopStep_withDebug b s.popSchedule
  | tickDt => exact congrArg Host.Outcome.next (tickDt_withDebug b s.popSchedule)
  | tickSt => exact congrArg Host.Outcome.next (tickSt_withDebug b s.popSchedule)
  | stWrite => exact congrArg Host.Outcome.next (stWrite_withDebug b s.popSchedule)
  | rst image => exact congrArg Host.Outcome.next (rst_withDebug b image s.popSchedule)

end Sys2Proof.Proofs
end

section
/-! PROOFS. The register operations of family 0x8, RND, and the instructions of an absent unit (R92, R162-R178,
R222-R226). -/

namespace Sys2Proof.Proofs

open Sys2Proof Sys2Proof.Machine

/-- A word of format XYN, its fixed bits first (R88). -/
theorem encodedAs_of_encodeXYN {i : Instr} {f n : Nibble} {x y : Reg} {w : Nat} (hi : encode i = encodeXYN f x y n)
    (hw : w = f.toNat * 0x1000 + n.toNat) : EncodedAs i (w + x.val * 0x100 + y.val * 0x10) := by
  apply encodedAs_of_encode
  rw [hi, hw, encodeXYN]
  congr 1
  omega

/-- Settles O13: each ends with its result and no flag. -/
theorem moveAndLogic : Obligations.MoveAndLogic := by
  intro x y s
  have hmove := writeResult_spec x (s.getV y) s
  have hor := writeResult_spec x (s.getV x ||| s.getV y) s
  have hand := writeResult_spec x (s.getV x &&& s.getV y) s
  have hxor := writeResult_spec x (s.getV x ^^^ s.getV y) s
  exact ⟨encodedAs_of_encodeXYN rfl rfl, encodedAs_of_encodeXYN rfl rfl, encodedAs_of_encodeXYN rfl rfl,
    encodedAs_of_encodeXYN rfl rfl, hmove, hor, hand, hxor⟩

/-! ### Results with a flag -/

/-- The result of a flag-writing operation as a number, beside its frame (R166). -/
theorem writeResultFlag_result {r : Byte} {m : Nat} (hr : r.toNat = m) (x : Reg) (flag : Byte) (s : State) :
    ∃ t, writeResultFlag x r flag s = .next t ∧ (x ≠ 15 → (t.getV x).toNat = m) ∧ NextSlot s t ∧
      ChangesOnly (.v x :: .v 15 :: Part.flow) s t := by
  obtain ⟨t, hexec, -, hresult, hrest⟩ := writeResultFlag_spec x r flag s
  exact ⟨t, hexec, fun hx => by rw [hresult hx, hr], hrest⟩

/-- A byte difference is the difference mod 256. -/
theorem sub_toNat (a b : Byte) : (a - b).toNat = (a.toNat + 256 - b.toNat) % 256 := by
  bv_omega

theorem ushiftRight_one_toNat (a : Byte) : (a >>> 1).toNat = a.toNat / 2 := by
  rw [BitVec.toNat_ushiftRight, Nat.shiftRight_eq_div_pow, pow_one]

theorem shiftLeft_one_toNat (a : Byte) : (a <<< 1).toNat = a.toNat * 2 % 256 := by
  rw [BitVec.toNat_shiftLeft, Nat.shiftLeft_eq, pow_one]

/-- Settles O15: the sum and the differences as numbers mod 256. -/
theorem addSubtractResults : Obligations.AddSubtractResults := by
  intro x y s
  have hadd := writeResultFlag_result (BitVec.toNat_add (s.getV x) (s.getV y)) x (flagAdd (s.getV x) (s.getV y)) s
  have hsub := writeResultFlag_result (sub_toNat (s.getV x) (s.getV y)) x (flagSub (s.getV x) (s.getV y)) s
  have hsubn := writeResultFlag_result (sub_toNat (s.getV y) (s.getV x)) x (flagSubn (s.getV x) (s.getV y)) s
  exact ⟨encodedAs_of_encodeXYN rfl rfl, encodedAs_of_encodeXYN rfl rfl, encodedAs_of_encodeXYN rfl rfl,
    hadd, hsub, hsubn⟩

/-- Settles O16: the shifts as a half and a double; `y` does not stand in what they run. -/
theorem shiftResults : Obligations.ShiftResults := by
  intro x y s
  have hshr := writeResultFlag_result (ushiftRight_one_toNat (s.getV x)) x (flagShr (s.getV x)) s
  have hshl := writeResultFlag_result (shiftLeft_one_toNat (s.getV x)) x (flagShl (s.getV x)) s
  exact ⟨encodedAs_of_encodeXYN rfl rfl, encodedAs_of_encodeXYN rfl rfl, hshr, hshl, fun z => ⟨rfl, rfl⟩⟩

/-- With VF as destination the flag is all that is left in a register (R166). -/
theorem writeResultFlag_vf (r flag : Byte) (s : State) :
    ∃ t, writeResultFlag 15 r flag s = .next t ∧ t.getV 15 = flag ∧ ChangesOnly (.v 15 :: Part.flow) s t := by
  obtain ⟨t, hexec, hflag, -, -, hframe⟩ := writeResultFlag_spec 15 r flag s
  exact ⟨t, hexec, hflag, changesOnly_of_subset hframe (by simp)⟩

/-- Settles O17: each flag is the function of the old VF in R167's table. -/
theorem flagOverwritesResultInVF : Obligations.FlagOverwritesResultInVF := by
  intro y s
  refine ⟨?add, ?sub, ?shr, ?subn, ?shl⟩
  case add =>
    rw [← flagAdd_eq]
    exact writeResultFlag_vf (s.getV 15 + s.getV y) _ s
  case sub =>
    rw [← flagByte_decide]
    exact writeResultFlag_vf (s.getV 15 - s.getV y) _ s
  case shr =>
    rw [← flagShr_toNat]
    simp only [BitVec.toNat_inj]
    exact writeResultFlag_vf (s.getV 15 >>> 1) _ s
  case subn =>
    rw [← flagByte_decide]
    exact writeResultFlag_vf (s.getV y - s.getV 15) _ s
  case shl =>
    rw [← flagShl_toNat]
    simp only [BitVec.toNat_inj]
    exact writeResultFlag_vf (s.getV 15 <<< 1) _ s

/-! ### RND -/

theorem dropRnd_changesOnly (s : State) : ChangesOnly [.draws] s s.dropRnd := by
  intro p hp
  cases p with
  | draws => simp at hp
  | _ => rfl

theorem rndDraw_of_cons {s : State} {r : Byte} {rest : List Byte} (h : s.draws.rnd = r :: rest) : s.rndDraw = r := by
  rw [State.rndDraw, h, List.headD_cons]

/-- Settles O18: the masked draw is a result, written after the draw is used up. -/
theorem randomByteMasked : Obligations.RandomByteMasked := by
  intro x kk s
  obtain ⟨t, hexec, hresult, hnext, hframe⟩ := writeResult_spec x (s.rndDraw &&& kk) s.dropRnd
  exact ⟨encodedAs_of_encode rfl, t, hexec, hresult, fun _ _ => rndDraw_of_cons, hframe .draws (by simp [Part.flow]),
    hnext, changesOnly_of_subset (changesOnly_trans (dropRnd_changesOnly s) hframe) (by simp [Part.flow])⟩

/-! ### Absent units -/

/-- Settles O40: without its unit an instruction is the fault alone. -/
theorem absentUnitsFault : Obligations.AbsentUnitsFault := by
  intro x y n s
  have habsent {unit : Bool} (h : unit = false) (present : Result) :
      ∃ t, (if unit then present else .next (s.takeFault .unimplementedOpcode)) = .next t ∧
        TakesFault .unimplementedOpcode s t :=
    ⟨_, if_neg (ne_true_of_eq_false h), takesFault_takeFault _ s⟩
  exact ⟨fun h => habsent h _, fun h => ⟨habsent h _, habsent h _, habsent h _⟩, fun h => habsent h _⟩

end Sys2Proof.Proofs
end
